-- ==== Sys2Proof/Word.lean ====
section
/-! DEFINITION. The word types of the block: bytes, words of 32 bits (addresses, program counters,
COP0 and device registers), doublewords of 64 bits, quadwords of 128 bits, and register numbers. -/

namespace Sys2Proof

/-- A byte of memory (20_memory.md R130). -/
abbrev Byte := BitVec 8

/-- A 32-bit value: an instruction word, an address, a COP0 or device register (R12). -/
abbrev Word := BitVec 32

/-- A 64-bit value: an EE register's bits 63:0 (R16). -/
abbrev Dword := BitVec 64

/-- A 128-bit value: a whole EE register, a DMA quadword (R11, R40). -/
abbrev Quad := BitVec 128

/-- The number of a general register, 0 to 31 (10_state.md R40), or of a COP0 register. -/
abbrev Reg := Fin 32

end Sys2Proof
end

