-- ==== Sys2Proof/Config.lean ====
section
/-! DEFINITION. The configuration of the block: the named parameters of 92_eei_decisions.md
("Parameters"), each at its default, the types of their values, and the one free value, the draw. -/

namespace Sys2Proof

/-- The two CPUs (R16). Each also names its own side's controllers: DMAC, INTC and timers (R2). -/
inductive Cpu where
  | ee
  | iop
deriving DecidableEq, Repr

/-- The buffers behind the page tables (20_memory.md R107). -/
inductive Buf where
  | eeRam
  | iopRam
  | bios
  | eeSpr
  | iopSpr
deriving DecidableEq, Repr

/-- A fast-path region, as `RegisterRegion(base, size, mask, buffer)` installs it (20_memory.md R105). -/
structure Region where
  base : Nat
  size : Nat
  mask : Word
  buf : Buf
  writable : Bool
deriving DecidableEq, Repr

/-- A range of physical addresses, both ends included. -/
structure AddrRange where
  first : Nat
  last : Nat
deriving DecidableEq, Repr

/-- `a` lies in the range. -/
def AddrRange.holds (r : AddrRange) (a : Nat) : Bool := r.first ≤ a && a ≤ r.last

/-- What a store to BIOS ROM does (parameter `rom_write`, D6). -/
inductive RomWrite where
  | fault
  | ignore
deriving DecidableEq, Repr

/-- How ERET pops the EE Status (parameter `ee_eret_pop`, D11). -/
inductive EretPop where
  | low6
  | bits72
  | none
deriving DecidableEq, Repr

/-- When a peripheral port is ready (parameter `dma_ready`, D27). -/
inductive DmaReady where
  | always
  | draw
deriving DecidableEq, Repr

namespace Config

/-- A draw (R24): the value the hardware takes from outside the block, with no law on it. Draw `n` of a
run is `draw n`; State counts the draws. FREE VALUE: it has no body, so nothing can be proved of it. -/
opaque draw : Nat → Quad

/-- `ee_boot_vector` (10_state.md R49). -/
def eeBootVector : Word := 0xBFC00000#32
/-- `iop_boot_vector` (10_state.md R49). -/
def iopBootVector : Word := 0xBFC00000#32
/-- `ee_prid` (10_state.md R56). -/
def eePrid : Word := 0x00002E20#32
/-- `iop_prid` (10_state.md R60). -/
def iopPrid : Word := 0x0000001F#32

/-- `ee_spr_base` and `ee_spr_size` (20_memory.md R101). -/
def eeSprBase : Nat := 0x70000000
def eeSprSize : Nat := 0x4000
/-- `ee_alias_base`, `ee_alias_size` and `ee_alias_mask` (20_memory.md R101). -/
def eeAliasBase : Nat := 0x30000000
def eeAliasSize : Nat := 0x10000000
def eeAliasMask : Word := 0x0FFFFFFF#32
/-- `phys_mask` (20_memory.md R101, R102). -/
def physMask : Word := 0x1FFFFFFF#32

/-- `ee_regions` (20_memory.md R107). -/
def eeRegions : List Region := [
  { base := 0x00000000, size := 0x02000000, mask := 0x01FFFFFF#32, buf := .eeRam,  writable := true },
  { base := 0x1C000000, size := 0x00200000, mask := 0x001FFFFF#32, buf := .iopRam, writable := true },
  { base := 0x1FC00000, size := 0x00400000, mask := 0x003FFFFF#32, buf := .bios,   writable := false },
  { base := 0x70000000, size := 0x00004000, mask := 0x00003FFF#32, buf := .eeSpr,  writable := true } ]

/-- `iop_regions` (20_memory.md R107). -/
def iopRegions : List Region := [
  { base := 0x00000000, size := 0x00800000, mask := 0x001FFFFF#32, buf := .iopRam, writable := true },
  { base := 0x1F800000, size := 0x00001000, mask := 0x000003FF#32, buf := .iopSpr, writable := true },
  { base := 0x1FC00000, size := 0x00400000, mask := 0x003FFFFF#32, buf := .bios,   writable := false } ]

/-- The region list of one CPU's page table. -/
def regions : Cpu → List Region
  | .ee => eeRegions
  | .iop => iopRegions

/-- `rom_write` (20_memory.md R111). -/
def romWrite : RomWrite := .fault
/-- `iop_isc_discards_stores` (20_memory.md R111). -/
def iopIscDiscardsStores : Bool := true

/-- `ee_mmio` (20_memory.md R122): timers, DMAC channels, DMAC control, INTC, DMAC enable. -/
def eeMmio : List AddrRange := [
  ⟨0x10000000, 0x10001FFF⟩, ⟨0x10008000, 0x1000DFFF⟩, ⟨0x1000E000, 0x1000E05F⟩,
  ⟨0x1000F000, 0x1000F01F⟩, ⟨0x1000F520, 0x1000F59F⟩ ]

/-- `iop_mmio` (20_memory.md R122): INTC, DMAC 0 to 6, timers 0 to 2, timers 3 to 5, DMAC 7 to 12. -/
def iopMmio : List AddrRange := [
  ⟨0x1F801070, 0x1F80107F⟩, ⟨0x1F801080, 0x1F8010FF⟩, ⟨0x1F801100, 0x1F80112F⟩,
  ⟨0x1F801480, 0x1F8014AF⟩, ⟨0x1F801500, 0x1F80157F⟩ ]

/-- `ee_external_mmio` (20_memory.md R123). -/
def eeExternalMmio : List AddrRange := [
  ⟨0x10002000, 0x10007FFF⟩, ⟨0x1000F100, 0x1000F4FF⟩, ⟨0x1000F5A0, 0x1000FFFF⟩,
  ⟨0x11000000, 0x1100FFFF⟩, ⟨0x12000000, 0x12001FFF⟩ ]

/-- `iop_external_mmio` (20_memory.md R123). -/
def iopExternalMmio : List AddrRange := [
  ⟨0x1D000000, 0x1D00007F⟩, ⟨0x1F400000, 0x1F4FFFFF⟩, ⟨0x1F801000, 0x1F80106F⟩,
  ⟨0x1F801400, 0x1F80147F⟩, ⟨0x1F801580, 0x1F8015FF⟩, ⟨0x1F801600, 0x1F808FFF⟩,
  ⟨0x1F900000, 0x1F9FFFFF⟩, ⟨0x1FFE0000, 0x1FFFFFFF⟩ ]

/-- The in-block device ranges of one CPU. -/
def mmio : Cpu → List AddrRange
  | .ee => eeMmio
  | .iop => iopMmio

/-- The external device ranges of one CPU. -/
def externalMmio : Cpu → List AddrRange
  | .ee => eeExternalMmio
  | .iop => iopExternalMmio

/-- `trap_on_overflow` (41_integer.md R262). -/
def trapOnOverflow : Bool := true

/-- `div_corner` for DIV by 0: the pair (LO, HI) as 32-bit values (41_integer.md R264). -/
def divByZero (a : Word) : Word × Word :=
  (if a.toInt < 0 then 0x00000001#32 else 0xFFFFFFFF#32, a)
/-- `div_corner` for DIV of 0x80000000 by 0xFFFFFFFF (41_integer.md R264). -/
def divOverflow : Word × Word := (0x80000000#32, 0x00000000#32)
/-- `div_corner` for DIVU by 0 (41_integer.md R264). -/
def divuByZero (a : Word) : Word × Word := (0xFFFFFFFF#32, a)

/-- `ee_vec_common` and `ee_vec_common_bev` (60_exceptions.md R415). -/
def eeVecCommon : Word := 0x80000180#32
def eeVecCommonBev : Word := 0xBFC00380#32
/-- `ee_vec_interrupt` and `ee_vec_interrupt_bev` (60_exceptions.md R415). -/
def eeVecInterrupt : Word := 0x80000200#32
def eeVecInterruptBev : Word := 0xBFC00400#32
/-- `iop_vec` and `iop_vec_bev` (60_exceptions.md R415). -/
def iopVec : Word := 0x80000080#32
def iopVecBev : Word := 0xBFC00180#32

/-- `ee_eret_pop` (43_system.md R385). -/
def eeEretPop : EretPop := .low6
/-- `iop_rfe_sets_pc` (43_system.md R386). -/
def iopRfeSetsPc : Bool := true

/-- `implemented_channels` (60_exceptions.md R475): every channel of both controllers. -/
def implementedChannels : Cpu → List Nat
  | .ee => [0, 1, 2, 3, 4, 5, 6, 7, 8, 9]
  | .iop => [0, 1, 2, 3, 4, 5, 6, 7, 8, 9, 10, 11, 12]

/-- `dma_ready` (60_exceptions.md R473). -/
def dmaReady : DmaReady := .always

/-- `quantum`: EE steps per quantum, a positive multiple of 8 (60_exceptions.md R584). -/
def quantum : Nat := 32
/-- `frame_cycles`: EE cycles per frame (60_exceptions.md R584). -/
def frameCycles : Nat := 4915200
/-- `vblank_start_at`, `vblank_end_at` and `hblank_cycles` (60_exceptions.md R593). -/
def vblankStartAt : Nat := 4546560
def vblankEndAt : Nat := 4915200
def hblankCycles : Nat := 9362

end Config

end Sys2Proof
end

