-- ==== Sys2Proof/Syntax.lean ====
section
/-! DEFINITION. The admitted instructions (00_scope.md R10): one constructor for each of the 101 rows of
spec/opcode_table.json, in the table's order, with the fields the row names. Register fields are register
numbers; shift amounts, immediates, the jump target and the code fields are kept as bits. -/

namespace Sys2Proof

/-- An admitted instruction of either CPU. -/
inductive Instr where
  -- conditional branches (40_control_flow.md sections 3 to 5)
  | beq (rs rt : Reg) (imm : BitVec 16)
  | bne (rs rt : Reg) (imm : BitVec 16)
  | blez (rs : Reg) (imm : BitVec 16)
  | bgtz (rs : Reg) (imm : BitVec 16)
  | beql (rs rt : Reg) (imm : BitVec 16)
  | bnel (rs rt : Reg) (imm : BitVec 16)
  | blezl (rs : Reg) (imm : BitVec 16)
  | bgtzl (rs : Reg) (imm : BitVec 16)
  | bltz (rs : Reg) (imm : BitVec 16)
  | bgez (rs : Reg) (imm : BitVec 16)
  | bltzl (rs : Reg) (imm : BitVec 16)
  | bgezl (rs : Reg) (imm : BitVec 16)
  | bltzal (rs : Reg) (imm : BitVec 16)
  | bgezal (rs : Reg) (imm : BitVec 16)
  | bltzall (rs : Reg) (imm : BitVec 16)
  | bgezall (rs : Reg) (imm : BitVec 16)
  -- jumps (40_control_flow.md section 5)
  | j (target : BitVec 26)
  | jal (target : BitVec 26)
  | jr (rs : Reg)
  | jalr (rd rs : Reg)
  -- register arithmetic and logic (41_integer.md section 2)
  | add (rd rs rt : Reg)
  | addu (rd rs rt : Reg)
  | sub (rd rs rt : Reg)
  | subu (rd rs rt : Reg)
  | and (rd rs rt : Reg)
  | or (rd rs rt : Reg)
  | xor (rd rs rt : Reg)
  | nor (rd rs rt : Reg)
  | slt (rd rs rt : Reg)
  | sltu (rd rs rt : Reg)
  -- shifts (41_integer.md section 4)
  | sll (rd rt : Reg) (sa : BitVec 5)
  | srl (rd rt : Reg) (sa : BitVec 5)
  | sra (rd rt : Reg) (sa : BitVec 5)
  | sllv (rd rt rs : Reg)
  | srlv (rd rt rs : Reg)
  | srav (rd rt rs : Reg)
  -- multiply, divide, HI and LO (41_integer.md section 5)
  | mult (rd rs rt : Reg)
  | multu (rd rs rt : Reg)
  | div (rs rt : Reg)
  | divu (rs rt : Reg)
  | mfhi (rd : Reg)
  | mflo (rd : Reg)
  | mthi (rs : Reg)
  | mtlo (rs : Reg)
  -- EE doubleword and conditional moves (41_integer.md section 6)
  | daddu (rd rs rt : Reg)
  | dsubu (rd rs rt : Reg)
  | dsll (rd rt : Reg) (sa : BitVec 5)
  | dsrl (rd rt : Reg) (sa : BitVec 5)
  | dsra (rd rt : Reg) (sa : BitVec 5)
  | dsll32 (rd rt : Reg) (sa : BitVec 5)
  | dsrl32 (rd rt : Reg) (sa : BitVec 5)
  | dsra32 (rd rt : Reg) (sa : BitVec 5)
  | dsllv (rd rt rs : Reg)
  | dsrlv (rd rt rs : Reg)
  | dsrav (rd rt rs : Reg)
  | movz (rd rs rt : Reg)
  | movn (rd rs rt : Reg)
  -- barrier and exception-raising instructions (42_load_store.md R370, 43_system.md section 1)
  | sync (stype : BitVec 5)
  | syscall (code : BitVec 20)
  | brk (code : BitVec 20)
  -- immediate arithmetic and logic (41_integer.md section 3, R312)
  | addi (rt rs : Reg) (imm : BitVec 16)
  | addiu (rt rs : Reg) (imm : BitVec 16)
  | slti (rt rs : Reg) (imm : BitVec 16)
  | sltiu (rt rs : Reg) (imm : BitVec 16)
  | andi (rt rs : Reg) (imm : BitVec 16)
  | ori (rt rs : Reg) (imm : BitVec 16)
  | xori (rt rs : Reg) (imm : BitVec 16)
  | daddiu (rt rs : Reg) (imm : BitVec 16)
  | lui (rt : Reg) (imm : BitVec 16)
  -- EE multimedia subset (41_integer.md section 7)
  | paddw (rd rs rt : Reg)
  | psubw (rd rs rt : Reg)
  | pand (rd rs rt : Reg)
  | por (rd rs rt : Reg)
  | pxor (rd rs rt : Reg)
  | pnor (rd rs rt : Reg)
  | pcpyld (rd rs rt : Reg)
  | pcpyud (rd rs rt : Reg)
  -- loads and stores (42_load_store.md sections 2 and 3)
  | lb (rt base : Reg) (offset : BitVec 16)
  | lbu (rt base : Reg) (offset : BitVec 16)
  | lh (rt base : Reg) (offset : BitVec 16)
  | lhu (rt base : Reg) (offset : BitVec 16)
  | lw (rt base : Reg) (offset : BitVec 16)
  | lwu (rt base : Reg) (offset : BitVec 16)
  | lq (rt base : Reg) (offset : BitVec 16)
  | ld (rt base : Reg) (offset : BitVec 16)
  | sb (rt base : Reg) (offset : BitVec 16)
  | sh (rt base : Reg) (offset : BitVec 16)
  | sw (rt base : Reg) (offset : BitVec 16)
  | sq (rt base : Reg) (offset : BitVec 16)
  | sd (rt base : Reg) (offset : BitVec 16)
  | cache (op : BitVec 5) (base : Reg) (offset : BitVec 16)
  -- COP0 moves, returns, interrupt enable and TLB operations (43_system.md sections 2 to 5)
  | mfc0 (rt rd : Reg)
  | mtc0 (rt rd : Reg)
  | eret
  | rfe
  | ei
  | di
  | tlbr
  | tlbwi
  | tlbwr
  | tlbp
deriving DecidableEq, Repr

end Sys2Proof
end

