-- ==== Sys2Proof/WellFormed.lean ====
section
/-! DEFINITION. Which instructions are well formed. Every field of `Instr` has exactly the width of its
encoding, so no field can hold a value the encoding does not admit; the one check left is that the
executing CPU's tables have a row for the instruction (30_encoding.md R187, the table's `cpu` column). -/

namespace Sys2Proof

/-- The CPUs whose dispatch tables have a row for an instruction. -/
inductive Availability where
  | both
  | eeOnly
  | iopOnly
deriving DecidableEq, Repr

/-- The `cpu` column of the opcode table. -/
def Instr.availability : Instr → Availability
  | .beq .. | .bne .. | .blez .. | .bgtz .. => .both
  | .beql .. | .bnel .. | .blezl .. | .bgtzl .. => .eeOnly
  | .bltz .. | .bgez .. => .both
  | .bltzl .. | .bgezl .. => .eeOnly
  | .bltzal .. | .bgezal .. => .both
  | .bltzall .. | .bgezall .. => .eeOnly
  | .j .. | .jal .. | .jr .. | .jalr .. => .both
  | .add .. | .addu .. | .sub .. | .subu .. | .and .. | .or .. | .xor .. | .nor .. | .slt .. | .sltu .. => .both
  | .sll .. | .srl .. | .sra .. | .sllv .. | .srlv .. | .srav .. => .both
  | .mult .. | .multu .. | .div .. | .divu .. | .mfhi .. | .mflo .. | .mthi .. | .mtlo .. => .both
  | .daddu .. | .dsubu .. | .dsll .. | .dsrl .. | .dsra .. | .dsll32 .. | .dsrl32 .. | .dsra32 .. => .eeOnly
  | .dsllv .. | .dsrlv .. | .dsrav .. | .movz .. | .movn .. | .sync .. => .eeOnly
  | .syscall .. | .brk .. => .both
  | .addi .. | .addiu .. | .slti .. | .sltiu .. | .andi .. | .ori .. | .xori .. => .both
  | .daddiu .. => .eeOnly
  | .lui .. => .both
  | .paddw .. | .psubw .. | .pand .. | .por .. | .pxor .. | .pnor .. | .pcpyld .. | .pcpyud .. => .eeOnly
  | .lb .. | .lbu .. | .lh .. | .lhu .. | .lw .. => .both
  | .lwu .. | .lq .. | .ld .. => .eeOnly
  | .sb .. | .sh .. | .sw .. => .both
  | .sq .. | .sd .. | .cache .. => .eeOnly
  | .mfc0 .. | .mtc0 .. => .both
  | .eret => .eeOnly
  | .rfe => .iopOnly
  | .ei | .di | .tlbr | .tlbwi | .tlbwr | .tlbp => .eeOnly

/-- A CPU's tables hold the row. -/
def Availability.on : Availability → Cpu → Bool
  | .both, _ => true
  | .eeOnly, c => c == .ee
  | .iopOnly, c => c == .iop

/-- An instruction is well formed for a CPU when that CPU admits it (30_encoding.md R187). -/
def Instr.wellFormed (c : Cpu) (i : Instr) : Bool := i.availability.on c

end Sys2Proof
end

