-- ==== Sys2Proof/Decode.lean ====
section
/-! DEFINITION. The decoder and the encoder. The decoder follows the dispatch structure of 30_encoding.md
section 3: a primary table keyed by the opcode, redirected through SPECIAL (funct), REGIMM (rt),
COP0 (rs, then funct) and MMI (funct, then sa). It is total: every word is an admitted instruction of the
CPU, a refused word (R186) or an illegal word (R185). Fields an instruction does not use are ignored (R194). -/

namespace Sys2Proof

/-! ## Fields (30_encoding.md R161) -/

/-- The opcode, w[31:26]. -/
def fieldOp (w : Word) : BitVec 6 := w.extractLsb' 26 6
/-- The rs field, w[25:21], as bits. -/
def fieldRsBits (w : Word) : BitVec 5 := w.extractLsb' 21 5
/-- The rt field, w[20:16], as bits. -/
def fieldRtBits (w : Word) : BitVec 5 := w.extractLsb' 16 5
/-- The rd field, w[15:11], as bits. -/
def fieldRdBits (w : Word) : BitVec 5 := w.extractLsb' 11 5
/-- The shift amount, w[10:6]. -/
def fieldSa (w : Word) : BitVec 5 := w.extractLsb' 6 5
/-- The function field, w[5:0]. -/
def fieldFunct (w : Word) : BitVec 6 := w.extractLsb' 0 6
/-- The immediate, w[15:0]. -/
def fieldImm (w : Word) : BitVec 16 := w.extractLsb' 0 16
/-- The jump target, w[25:0]. -/
def fieldTarget (w : Word) : BitVec 26 := w.extractLsb' 0 26
/-- The code field of SYSCALL and BREAK, w[25:6] (43_system.md R380). -/
def fieldCode (w : Word) : BitVec 20 := w.extractLsb' 6 20

/-- A five-bit field read as a register number (30_encoding.md R176). -/
def regOfBits (b : BitVec 5) : Reg := b.toFin
/-- A register number as the five bits that name it. -/
def bitsOfReg (r : Reg) : BitVec 5 := BitVec.ofFin (w := 5) r

/-- The register named by rs. -/
def fieldRs (w : Word) : Reg := regOfBits (fieldRsBits w)
/-- The register named by rt. -/
def fieldRt (w : Word) : Reg := regOfBits (fieldRtBits w)
/-- The register named by rd. -/
def fieldRd (w : Word) : Reg := regOfBits (fieldRdBits w)

/-! ## Decode -/

/-- The one class of a word on a CPU (30_encoding.md R187). -/
inductive Decoded where
  /-- an admitted instruction -/
  | instr (i : Instr)
  /-- an empty table entry: `fault IllegalInstruction` (R185) -/
  | illegal
  /-- a real instruction outside the admitted subset: `refuse NotAdmitted` (R186) -/
  | notAdmitted
  /-- a word routed to COP1 or COP2: `refuse ExternalCoprocessor` (R186) -/
  | externalCoprocessor
deriving DecidableEq, Repr

/-- An entry the EE's tables hold and the IOP's leave empty (30_encoding.md R185). -/
def eeEntry (c : Cpu) (i : Instr) : Decoded :=
  match c with
  | .ee => .instr i
  | .iop => .illegal

/-- A pattern refused on the EE and empty on the IOP (30_encoding.md R186). -/
def eeRefused (c : Cpu) : Decoded :=
  match c with
  | .ee => .notAdmitted
  | .iop => .illegal

/-- A pattern routed to an external coprocessor on the EE and empty on the IOP (30_encoding.md R186). -/
def eeCoprocessor (c : Cpu) : Decoded :=
  match c with
  | .ee => .externalCoprocessor
  | .iop => .illegal

/-- The SPECIAL table, keyed by funct (30_encoding.md R181, R189). -/
def decodeSpecial (c : Cpu) (w : Word) : Decoded :=
  match (fieldFunct w).toNat with
  | 0x00 => .instr (.sll (fieldRd w) (fieldRt w) (fieldSa w))
  | 0x02 => .instr (.srl (fieldRd w) (fieldRt w) (fieldSa w))
  | 0x03 => .instr (.sra (fieldRd w) (fieldRt w) (fieldSa w))
  | 0x04 => .instr (.sllv (fieldRd w) (fieldRt w) (fieldRs w))
  | 0x06 => .instr (.srlv (fieldRd w) (fieldRt w) (fieldRs w))
  | 0x07 => .instr (.srav (fieldRd w) (fieldRt w) (fieldRs w))
  | 0x08 => .instr (.jr (fieldRs w))
  | 0x09 => .instr (.jalr (fieldRd w) (fieldRs w))
  | 0x0A => eeEntry c (.movz (fieldRd w) (fieldRs w) (fieldRt w))
  | 0x0B => eeEntry c (.movn (fieldRd w) (fieldRs w) (fieldRt w))
  | 0x0C => .instr (.syscall (fieldCode w))
  | 0x0D => .instr (.brk (fieldCode w))
  | 0x0F => eeEntry c (.sync (fieldSa w))
  | 0x10 => .instr (.mfhi (fieldRd w))
  | 0x11 => .instr (.mthi (fieldRs w))
  | 0x12 => .instr (.mflo (fieldRd w))
  | 0x13 => .instr (.mtlo (fieldRs w))
  | 0x14 => eeEntry c (.dsllv (fieldRd w) (fieldRt w) (fieldRs w))
  | 0x16 => eeEntry c (.dsrlv (fieldRd w) (fieldRt w) (fieldRs w))
  | 0x17 => eeEntry c (.dsrav (fieldRd w) (fieldRt w) (fieldRs w))
  | 0x18 => .instr (.mult (fieldRd w) (fieldRs w) (fieldRt w))
  | 0x19 => .instr (.multu (fieldRd w) (fieldRs w) (fieldRt w))
  | 0x1A => .instr (.div (fieldRs w) (fieldRt w))
  | 0x1B => .instr (.divu (fieldRs w) (fieldRt w))
  | 0x20 => .instr (.add (fieldRd w) (fieldRs w) (fieldRt w))
  | 0x21 => .instr (.addu (fieldRd w) (fieldRs w) (fieldRt w))
  | 0x22 => .instr (.sub (fieldRd w) (fieldRs w) (fieldRt w))
  | 0x23 => .instr (.subu (fieldRd w) (fieldRs w) (fieldRt w))
  | 0x24 => .instr (.and (fieldRd w) (fieldRs w) (fieldRt w))
  | 0x25 => .instr (.or (fieldRd w) (fieldRs w) (fieldRt w))
  | 0x26 => .instr (.xor (fieldRd w) (fieldRs w) (fieldRt w))
  | 0x27 => .instr (.nor (fieldRd w) (fieldRs w) (fieldRt w))
  | 0x28 => eeRefused c
  | 0x29 => eeRefused c
  | 0x2A => .instr (.slt (fieldRd w) (fieldRs w) (fieldRt w))
  | 0x2B => .instr (.sltu (fieldRd w) (fieldRs w) (fieldRt w))
  | 0x2C => eeRefused c
  | 0x2D => eeEntry c (.daddu (fieldRd w) (fieldRs w) (fieldRt w))
  | 0x2E => eeRefused c
  | 0x2F => eeEntry c (.dsubu (fieldRd w) (fieldRs w) (fieldRt w))
  | 0x30 => eeRefused c
  | 0x31 => eeRefused c
  | 0x32 => eeRefused c
  | 0x33 => eeRefused c
  | 0x34 => eeRefused c
  | 0x36 => eeRefused c
  | 0x38 => eeEntry c (.dsll (fieldRd w) (fieldRt w) (fieldSa w))
  | 0x3A => eeEntry c (.dsrl (fieldRd w) (fieldRt w) (fieldSa w))
  | 0x3B => eeEntry c (.dsra (fieldRd w) (fieldRt w) (fieldSa w))
  | 0x3C => eeEntry c (.dsll32 (fieldRd w) (fieldRt w) (fieldSa w))
  | 0x3E => eeEntry c (.dsrl32 (fieldRd w) (fieldRt w) (fieldSa w))
  | 0x3F => eeEntry c (.dsra32 (fieldRd w) (fieldRt w) (fieldSa w))
  | _ => .illegal

/-- The REGIMM table, keyed by rt (30_encoding.md R182, R190). -/
def decodeRegimm (c : Cpu) (w : Word) : Decoded :=
  match (fieldRtBits w).toNat with
  | 0x00 => .instr (.bltz (fieldRs w) (fieldImm w))
  | 0x01 => .instr (.bgez (fieldRs w) (fieldImm w))
  | 0x02 => eeEntry c (.bltzl (fieldRs w) (fieldImm w))
  | 0x03 => eeEntry c (.bgezl (fieldRs w) (fieldImm w))
  | 0x08 => eeRefused c
  | 0x09 => eeRefused c
  | 0x0A => eeRefused c
  | 0x0B => eeRefused c
  | 0x0C => eeRefused c
  | 0x0E => eeRefused c
  | 0x10 => .instr (.bltzal (fieldRs w) (fieldImm w))
  | 0x11 => .instr (.bgezal (fieldRs w) (fieldImm w))
  | 0x12 => eeEntry c (.bltzall (fieldRs w) (fieldImm w))
  | 0x13 => eeEntry c (.bgezall (fieldRs w) (fieldImm w))
  | 0x18 => eeRefused c
  | 0x19 => eeRefused c
  | _ => .illegal

/-- The EE's CO table, keyed by funct (30_encoding.md R191). -/
def decodeCoEe (w : Word) : Decoded :=
  match (fieldFunct w).toNat with
  | 0x01 => .instr .tlbr
  | 0x02 => .instr .tlbwi
  | 0x06 => .instr .tlbwr
  | 0x08 => .instr .tlbp
  | 0x18 => .instr .eret
  | 0x38 => .instr .ei
  | 0x39 => .instr .di
  | _ => .notAdmitted

/-- The IOP's CO table, keyed by funct (30_encoding.md R191). -/
def decodeCoIop (w : Word) : Decoded :=
  match (fieldFunct w).toNat with
  | 0x10 => .instr .rfe
  | _ => .notAdmitted

/-- The COP0 table, keyed by rs (30_encoding.md R183, R191). -/
def decodeCop0 (c : Cpu) (w : Word) : Decoded :=
  match (fieldRsBits w).toNat with
  | 0x00 => .instr (.mfc0 (fieldRt w) (fieldRd w))
  | 0x04 => .instr (.mtc0 (fieldRt w) (fieldRd w))
  | 0x08 => eeRefused c
  | 0x10 =>
    match c with
    | .ee => decodeCoEe w
    | .iop => decodeCoIop w
  | _ => .illegal

/-- The EE's MMI tables: funct selects MMI0, MMI2 or MMI3, and sa the instruction; every other word of the
opcode is refused (30_encoding.md R184, R192). -/
def decodeMmiEe (w : Word) : Decoded :=
  match (fieldFunct w).toNat, (fieldSa w).toNat with
  | 0x08, 0x00 => .instr (.paddw (fieldRd w) (fieldRs w) (fieldRt w))
  | 0x08, 0x01 => .instr (.psubw (fieldRd w) (fieldRs w) (fieldRt w))
  | 0x09, 0x0E => .instr (.pcpyld (fieldRd w) (fieldRs w) (fieldRt w))
  | 0x09, 0x12 => .instr (.pand (fieldRd w) (fieldRs w) (fieldRt w))
  | 0x09, 0x13 => .instr (.pxor (fieldRd w) (fieldRs w) (fieldRt w))
  | 0x29, 0x0E => .instr (.pcpyud (fieldRd w) (fieldRs w) (fieldRt w))
  | 0x29, 0x12 => .instr (.por (fieldRd w) (fieldRs w) (fieldRt w))
  | 0x29, 0x13 => .instr (.pnor (fieldRd w) (fieldRs w) (fieldRt w))
  | _, _ => .notAdmitted

/-- The MMI opcode: the EE's tables, empty on the IOP (30_encoding.md R184, R185). -/
def decodeMmi (c : Cpu) (w : Word) : Decoded :=
  match c with
  | .ee => decodeMmiEe w
  | .iop => .illegal

/-- The primary table, keyed by the opcode (30_encoding.md R180, R188). -/
def decode (c : Cpu) (w : Word) : Decoded :=
  match (fieldOp w).toNat with
  | 0x00 => decodeSpecial c w
  | 0x01 => decodeRegimm c w
  | 0x02 => .instr (.j (fieldTarget w))
  | 0x03 => .instr (.jal (fieldTarget w))
  | 0x04 => .instr (.beq (fieldRs w) (fieldRt w) (fieldImm w))
  | 0x05 => .instr (.bne (fieldRs w) (fieldRt w) (fieldImm w))
  | 0x06 => .instr (.blez (fieldRs w) (fieldImm w))
  | 0x07 => .instr (.bgtz (fieldRs w) (fieldImm w))
  | 0x08 => .instr (.addi (fieldRt w) (fieldRs w) (fieldImm w))
  | 0x09 => .instr (.addiu (fieldRt w) (fieldRs w) (fieldImm w))
  | 0x0A => .instr (.slti (fieldRt w) (fieldRs w) (fieldImm w))
  | 0x0B => .instr (.sltiu (fieldRt w) (fieldRs w) (fieldImm w))
  | 0x0C => .instr (.andi (fieldRt w) (fieldRs w) (fieldImm w))
  | 0x0D => .instr (.ori (fieldRt w) (fieldRs w) (fieldImm w))
  | 0x0E => .instr (.xori (fieldRt w) (fieldRs w) (fieldImm w))
  | 0x0F => .instr (.lui (fieldRt w) (fieldImm w))
  | 0x10 => decodeCop0 c w
  | 0x11 => eeCoprocessor c
  | 0x12 => eeCoprocessor c
  | 0x14 => eeEntry c (.beql (fieldRs w) (fieldRt w) (fieldImm w))
  | 0x15 => eeEntry c (.bnel (fieldRs w) (fieldRt w) (fieldImm w))
  | 0x16 => eeEntry c (.blezl (fieldRs w) (fieldImm w))
  | 0x17 => eeEntry c (.bgtzl (fieldRs w) (fieldImm w))
  | 0x18 => eeRefused c
  | 0x19 => eeEntry c (.daddiu (fieldRt w) (fieldRs w) (fieldImm w))
  | 0x1A => eeRefused c
  | 0x1B => eeRefused c
  | 0x1C => decodeMmi c w
  | 0x1E => eeEntry c (.lq (fieldRt w) (fieldRs w) (fieldImm w))
  | 0x1F => eeEntry c (.sq (fieldRt w) (fieldRs w) (fieldImm w))
  | 0x20 => .instr (.lb (fieldRt w) (fieldRs w) (fieldImm w))
  | 0x21 => .instr (.lh (fieldRt w) (fieldRs w) (fieldImm w))
  | 0x22 => .notAdmitted
  | 0x23 => .instr (.lw (fieldRt w) (fieldRs w) (fieldImm w))
  | 0x24 => .instr (.lbu (fieldRt w) (fieldRs w) (fieldImm w))
  | 0x25 => .instr (.lhu (fieldRt w) (fieldRs w) (fieldImm w))
  | 0x26 => .notAdmitted
  | 0x27 => eeEntry c (.lwu (fieldRt w) (fieldRs w) (fieldImm w))
  | 0x28 => .instr (.sb (fieldRt w) (fieldRs w) (fieldImm w))
  | 0x29 => .instr (.sh (fieldRt w) (fieldRs w) (fieldImm w))
  | 0x2A => .notAdmitted
  | 0x2B => .instr (.sw (fieldRt w) (fieldRs w) (fieldImm w))
  | 0x2C => eeRefused c
  | 0x2D => eeRefused c
  | 0x2E => .notAdmitted
  | 0x2F => eeEntry c (.cache (fieldRtBits w) (fieldRs w) (fieldImm w))
  | 0x31 => eeCoprocessor c
  | 0x33 => eeRefused c
  | 0x36 => eeCoprocessor c
  | 0x37 => eeEntry c (.ld (fieldRt w) (fieldRs w) (fieldImm w))
  | 0x39 => eeCoprocessor c
  | 0x3E => eeCoprocessor c
  | 0x3F => eeEntry c (.sd (fieldRt w) (fieldRs w) (fieldImm w))
  | _ => .illegal

/-! ## Encode -/

/-- The R format (30_encoding.md R162). -/
def encodeR (op : BitVec 6) (rs rt rd sa : BitVec 5) (funct : BitVec 6) : Word :=
  op ++ rs ++ rt ++ rd ++ sa ++ funct

/-- The I format (30_encoding.md R163). -/
def encodeI (op : BitVec 6) (rs rt : BitVec 5) (imm : BitVec 16) : Word :=
  op ++ rs ++ rt ++ imm

/-- The J format (30_encoding.md R164). -/
def encodeJ (op : BitVec 6) (target : BitVec 26) : Word := op ++ target

/-- SYSCALL and BREAK: SPECIAL with a 20-bit code field (43_system.md R380, R381). -/
def encodeCode (code : BitVec 20) (funct : BitVec 6) : Word := 0x00#6 ++ code ++ funct

/-- A SPECIAL word of three registers; sa is 0. -/
def encodeSpecial (funct : BitVec 6) (rd rs rt : Reg) : Word :=
  encodeR 0x00 (bitsOfReg rs) (bitsOfReg rt) (bitsOfReg rd) 0 funct

/-- A SPECIAL word of a shift by sa; rs is 0. -/
def encodeShift (funct : BitVec 6) (rd rt : Reg) (sa : BitVec 5) : Word :=
  encodeR 0x00 0 (bitsOfReg rt) (bitsOfReg rd) sa funct

/-- An MMI word: funct names the sub-table, sa the instruction. -/
def encodeMmi (funct : BitVec 6) (sa : BitVec 5) (rd rs rt : Reg) : Word :=
  encodeR 0x1C (bitsOfReg rs) (bitsOfReg rt) (bitsOfReg rd) sa funct

/-- An I-format word of two registers. -/
def encodeImm (op : BitVec 6) (rs rt : Reg) (imm : BitVec 16) : Word :=
  encodeI op (bitsOfReg rs) (bitsOfReg rt) imm

/-- A REGIMM word: rt names the operation. -/
def encodeRegimm (rt : BitVec 5) (rs : Reg) (imm : BitVec 16) : Word :=
  encodeI 0x01 (bitsOfReg rs) rt imm

/-- A COP0 move: rs is the format selector (30_encoding.md R165). -/
def encodeCop0Move (rs : BitVec 5) (rt rd : Reg) : Word :=
  encodeR 0x10 rs (bitsOfReg rt) (bitsOfReg rd) 0 0

/-- A COP0 operation: rs is 16 and funct names it (30_encoding.md R165). -/
def encodeCo (funct : BitVec 6) : Word := encodeR 0x10 0x10 0 0 0 funct

/-- The word of an instruction, with every field the instruction does not use zero
(30_encoding.md R188 to R192). -/
def encode : Instr → Word
  | .beq rs rt imm => encodeImm 0x04 rs rt imm
  | .bne rs rt imm => encodeImm 0x05 rs rt imm
  | .blez rs imm => encodeImm 0x06 rs 0 imm
  | .bgtz rs imm => encodeImm 0x07 rs 0 imm
  | .beql rs rt imm => encodeImm 0x14 rs rt imm
  | .bnel rs rt imm => encodeImm 0x15 rs rt imm
  | .blezl rs imm => encodeImm 0x16 rs 0 imm
  | .bgtzl rs imm => encodeImm 0x17 rs 0 imm
  | .bltz rs imm => encodeRegimm 0x00 rs imm
  | .bgez rs imm => encodeRegimm 0x01 rs imm
  | .bltzl rs imm => encodeRegimm 0x02 rs imm
  | .bgezl rs imm => encodeRegimm 0x03 rs imm
  | .bltzal rs imm => encodeRegimm 0x10 rs imm
  | .bgezal rs imm => encodeRegimm 0x11 rs imm
  | .bltzall rs imm => encodeRegimm 0x12 rs imm
  | .bgezall rs imm => encodeRegimm 0x13 rs imm
  | .j target => encodeJ 0x02 target
  | .jal target => encodeJ 0x03 target
  | .jr rs => encodeSpecial 0x08 0 rs 0
  | .jalr rd rs => encodeSpecial 0x09 rd rs 0
  | .add rd rs rt => encodeSpecial 0x20 rd rs rt
  | .addu rd rs rt => encodeSpecial 0x21 rd rs rt
  | .sub rd rs rt => encodeSpecial 0x22 rd rs rt
  | .subu rd rs rt => encodeSpecial 0x23 rd rs rt
  | .and rd rs rt => encodeSpecial 0x24 rd rs rt
  | .or rd rs rt => encodeSpecial 0x25 rd rs rt
  | .xor rd rs rt => encodeSpecial 0x26 rd rs rt
  | .nor rd rs rt => encodeSpecial 0x27 rd rs rt
  | .slt rd rs rt => encodeSpecial 0x2A rd rs rt
  | .sltu rd rs rt => encodeSpecial 0x2B rd rs rt
  | .sll rd rt sa => encodeShift 0x00 rd rt sa
  | .srl rd rt sa => encodeShift 0x02 rd rt sa
  | .sra rd rt sa => encodeShift 0x03 rd rt sa
  | .sllv rd rt rs => encodeSpecial 0x04 rd rs rt
  | .srlv rd rt rs => encodeSpecial 0x06 rd rs rt
  | .srav rd rt rs => encodeSpecial 0x07 rd rs rt
  | .mult rd rs rt => encodeSpecial 0x18 rd rs rt
  | .multu rd rs rt => encodeSpecial 0x19 rd rs rt
  | .div rs rt => encodeSpecial 0x1A 0 rs rt
  | .divu rs rt => encodeSpecial 0x1B 0 rs rt
  | .mfhi rd => encodeSpecial 0x10 rd 0 0
  | .mflo rd => encodeSpecial 0x12 rd 0 0
  | .mthi rs => encodeSpecial 0x11 0 rs 0
  | .mtlo rs => encodeSpecial 0x13 0 rs 0
  | .daddu rd rs rt => encodeSpecial 0x2D rd rs rt
  | .dsubu rd rs rt => encodeSpecial 0x2F rd rs rt
  | .dsll rd rt sa => encodeShift 0x38 rd rt sa
  | .dsrl rd rt sa => encodeShift 0x3A rd rt sa
  | .dsra rd rt sa => encodeShift 0x3B rd rt sa
  | .dsll32 rd rt sa => encodeShift 0x3C rd rt sa
  | .dsrl32 rd rt sa => encodeShift 0x3E rd rt sa
  | .dsra32 rd rt sa => encodeShift 0x3F rd rt sa
  | .dsllv rd rt rs => encodeSpecial 0x14 rd rs rt
  | .dsrlv rd rt rs => encodeSpecial 0x16 rd rs rt
  | .dsrav rd rt rs => encodeSpecial 0x17 rd rs rt
  | .movz rd rs rt => encodeSpecial 0x0A rd rs rt
  | .movn rd rs rt => encodeSpecial 0x0B rd rs rt
  | .sync stype => encodeR 0x00 0 0 0 stype 0x0F
  | .syscall code => encodeCode code 0x0C
  | .brk code => encodeCode code 0x0D
  | .addi rt rs imm => encodeImm 0x08 rs rt imm
  | .addiu rt rs imm => encodeImm 0x09 rs rt imm
  | .slti rt rs imm => encodeImm 0x0A rs rt imm
  | .sltiu rt rs imm => encodeImm 0x0B rs rt imm
  | .andi rt rs imm => encodeImm 0x0C rs rt imm
  | .ori rt rs imm => encodeImm 0x0D rs rt imm
  | .xori rt rs imm => encodeImm 0x0E rs rt imm
  | .daddiu rt rs imm => encodeImm 0x19 rs rt imm
  | .lui rt imm => encodeImm 0x0F 0 rt imm
  | .paddw rd rs rt => encodeMmi 0x08 0x00 rd rs rt
  | .psubw rd rs rt => encodeMmi 0x08 0x01 rd rs rt
  | .pand rd rs rt => encodeMmi 0x09 0x12 rd rs rt
  | .por rd rs rt => encodeMmi 0x29 0x12 rd rs rt
  | .pxor rd rs rt => encodeMmi 0x09 0x13 rd rs rt
  | .pnor rd rs rt => encodeMmi 0x29 0x13 rd rs rt
  | .pcpyld rd rs rt => encodeMmi 0x09 0x0E rd rs rt
  | .pcpyud rd rs rt => encodeMmi 0x29 0x0E rd rs rt
  | .lb rt base offset => encodeImm 0x20 base rt offset
  | .lbu rt base offset => encodeImm 0x24 base rt offset
  | .lh rt base offset => encodeImm 0x21 base rt offset
  | .lhu rt base offset => encodeImm 0x25 base rt offset
  | .lw rt base offset => encodeImm 0x23 base rt offset
  | .lwu rt base offset => encodeImm 0x27 base rt offset
  | .lq rt base offset => encodeImm 0x1E base rt offset
  | .ld rt base offset => encodeImm 0x37 base rt offset
  | .sb rt base offset => encodeImm 0x28 base rt offset
  | .sh rt base offset => encodeImm 0x29 base rt offset
  | .sw rt base offset => encodeImm 0x2B base rt offset
  | .sq rt base offset => encodeImm 0x1F base rt offset
  | .sd rt base offset => encodeImm 0x3F base rt offset
  | .cache op base offset => encodeI 0x2F (bitsOfReg base) op offset
  | .mfc0 rt rd => encodeCop0Move 0x00 rt rd
  | .mtc0 rt rd => encodeCop0Move 0x04 rt rd
  | .eret => encodeCo 0x18
  | .rfe => encodeCo 0x10
  | .ei => encodeCo 0x38
  | .di => encodeCo 0x39
  | .tlbr => encodeCo 0x01
  | .tlbwi => encodeCo 0x02
  | .tlbwr => encodeCo 0x06
  | .tlbp => encodeCo 0x08

/-! ## Words and bytes -/

/-- The bytes of a word, lowest address first: little-endian (20_memory.md R130). -/
def wordBytes (w : Word) : List Byte :=
  [w.extractLsb' 0 8, w.extractLsb' 8 8, w.extractLsb' 16 8, w.extractLsb' 24 8]

/-- The word that four bytes hold, lowest address first; no word where there are not four
(30_encoding.md R160). -/
def wordOfBytes : List Byte → Option Word
  | b0 :: b1 :: b2 :: b3 :: _ => some (b3 ++ b2 ++ b1 ++ b0)
  | _ => none

/-- The instruction that the first bytes of a list hold on a CPU, with the class of the word where it is none. -/
def decodeBytes (c : Cpu) (bs : List Byte) : Option Decoded :=
  (wordOfBytes bs).map (decode c)

/-- The instruction of a decode outcome. -/
def Decoded.instr? : Decoded → Option Instr
  | .instr i => some i
  | _ => none

/-- The CPU on which a word is to be tried first: the EE where the EE admits it, else the IOP where the IOP
does, else the EE. -/
def admittingCpu (w : Word) : Cpu :=
  match decode .ee w, decode .iop w with
  | .instr _, _ => .ee
  | _, .instr _ => .iop
  | _, _ => .ee

/-- The instruction the decoder reads from the bits `w` of a row of `nbits` bits: the word is laid out in
memory order and decoded by the EE, or by the IOP where only the IOP admits it. -/
def decodeTableWord (nbits w : Nat) : Option Instr :=
  let word := BitVec.ofNat 32 (w % 2 ^ nbits)
  (decodeBytes (admittingCpu word) (wordBytes word)).bind Decoded.instr?

end Sys2Proof
end

