-- ==== Sys2Proof/Machine/State.lean ====
section
/-! DEFINITION. The state of the block: both cores, memory, the interrupt controllers, the DMA controllers,
the timers, the scheduler, the histories and the frame driver's position; the reasons a step can stop; and
the reset state (10_state.md, 60_exceptions.md sections 8 to 20, 70_reset_and_hazards.md R600). -/

namespace Sys2Proof.Machine

/-! ## Why a step stops -/

/-- The faults of 00_scope.md R22: each stops the whole block. Raised where 60_exceptions.md R402 says. -/
inductive Fault where
  /-- a word that reaches an empty table entry (30_encoding.md R185); raised by the step, and by the meaning of
  an EE-only instruction run on the IOP. Safe: the spec's own stop. -/
  | illegalInstruction (word pc : Word)
  /-- a fetch from, or a DMA access to, a page with no page-table entry, or a DMA write to a read-only page
  (20_memory.md R113, R134); raised by fetch and by the DMACs. Safe: the spec's own stop. -/
  | unmappedAccess (va : Word) (n : Nat) (write : Bool)
  /-- a data access that no page and no device register serves (20_memory.md R120); raised by loads and stores.
  Safe: the spec's own stop. -/
  | unhandledMmio (pa : Word) (n : Nat) (write : Bool)
  /-- a 2, 4 or 8-byte data access at an address that is no multiple of its size (20_memory.md R110, R111);
  raised by loads and stores. Safe: the spec's own stop. -/
  | misaligned (va : Word) (n : Nat)
  /-- a fetch with pc[1:0] not zero (10_state.md R48); raised by fetch. Safe: the spec's own stop. -/
  | misalignedFetch (pc : Word)
  /-- a store to BIOS ROM (20_memory.md R111); raised by stores. Safe: the spec's own stop. -/
  | romWrite (pa : Word)
  /-- a start of a DMA channel with no routine (60_exceptions.md R475); raised by a store to CHCR. Safe: the
  spec's own stop. -/
  | dmaUnimplemented (ctrl : Cpu) (ch : Nat)
  /-- a DMA control pattern with no routine (60_exceptions.md R490, R495); raised by a store to CHCR and by the
  EE DMAC. Safe: the spec's own stop. -/
  | dmaBadControl (ctrl : Cpu) (ch : Nat) (chcr : Word)
  /-- a branch, jump or ERET in a delay slot (40_control_flow.md R207, 43_system.md R385); raised by those
  instructions. Safe: the spec's own stop. -/
  | branchInDelaySlot (pc : Word)
  /-- a timer put into a gate mode (60_exceptions.md R541, R571); raised by a store to the timer's mode register.
  Safe: the spec's own stop. -/
  | timerGate (ctrl : Cpu) (n : Nat)
deriving DecidableEq, Repr

/-- The DMA modes the spec refuses (60_exceptions.md R490, R522). -/
inductive DmaMode where
  /-- EE destination chain -/
  | destChain
  /-- EE interleave -/
  | interleave
  /-- IOP sync mode 2 or 3 -/
  | iopSync (mode : BitVec 2)
deriving DecidableEq, Repr

/-- The refusals of 00_scope.md R23: the model stops and gives no meaning. -/
inductive Refusal where
  /-- an instruction whose arm has no meaning yet; raised by no arm of this model. Safe: nothing can be proved
  of a run that stops. -/
  | notModelled (mnemonic : String)
  /-- a real instruction outside the admitted subset (30_encoding.md R186); raised by the step, and by the meaning
  of a COP0 operation run on the CPU that lacks it. Safe: the spec's own refusal. -/
  | notAdmitted (word pc : Word)
  /-- a word routed to COP1 or COP2 (30_encoding.md R186); raised by the step. Safe: the spec's own refusal. -/
  | externalCoprocessor (word pc : Word)
  /-- a DMA mode the spec refuses (60_exceptions.md R475); raised by a store to CHCR. Safe: the spec's own refusal. -/
  | dmaMode (ctrl : Cpu) (ch : Nat) (mode : DmaMode)
deriving DecidableEq, Repr

/-! ## The cores (10_state.md) -/

/-- What both cores have: the program counter (R47), the delay-slot controller (R50), Status, the stored bits of
Cause, and EPC (R54 to R60). -/
structure CpuCtl where
  pc : Word
  branchPending : Bool
  inDelaySlot : Bool
  branchTarget : Word
  status : Word
  cause : Word
  epc : Word
deriving DecidableEq, Repr

/-- The EE core: 32 registers of 128 bits, HI and LO (R40, R45), and its own COP0 registers (R56). -/
structure EeCore where
  gpr : Vector Quad 32
  hi : Quad
  lo : Quad
  ctl : CpuCtl
  errorEpc : Word
  count : Word
  compare : Word
deriving DecidableEq, Repr

/-- The IOP core: 32 registers of 32 bits, HI and LO (R40, R45). -/
structure IopCore where
  gpr : Vector Word 32
  hi : Word
  lo : Word
  ctl : CpuCtl
deriving DecidableEq, Repr

/-! ## Memory (20_memory.md) -/

/-- The bytes of every buffer of 20_memory.md R107, as (key, byte) cells in canonical form: keys strictly rising,
no cell holding 0. The key of byte `o` of a buffer is `bufBase` of it plus `o`. -/
abbrev Memory := List Host.Cell

/-! ## Devices (60_exceptions.md sections 9 to 17) -/

/-- The EE INTC (R450). -/
structure EeIntc where
  stat : BitVec 15
  mask : BitVec 15
deriving DecidableEq, Repr

/-- The IOP INTC (R460). -/
structure IopIntc where
  stat : Word
  mask : Word
  ctrl : Word
deriving DecidableEq, Repr

/-- The hidden phase of a DMA channel (R470). -/
inductive DmaPhase where
  | idle
  | active
  | tagFetch
deriving DecidableEq, Repr

/-- An EE DMA channel: its registers (R482) and its hidden phase and chain_end (R470). -/
structure EeChannel where
  chcr : Word
  madr : Word
  qwc : BitVec 16
  tadr : Word
  asr0 : Word
  asr1 : Word
  sadr : Word
  phase : DmaPhase
  chainEnd : Bool
deriving DecidableEq, Repr

/-- The EE DMAC: ten channels and the control registers (R480, R481). -/
structure EeDmac where
  ch : Vector EeChannel 10
  dCtrl : Word
  dStat : Word
  dPcr : Word
  dSqwc : Word
  dRbsr : Word
  dRbor : Word
  dEnablew : Word
deriving DecidableEq, Repr

/-- An IOP DMA channel: its registers (R521), its hidden phase and its hidden counter `remaining` (R522). -/
structure IopChannel where
  madr : Word
  bcr : Word
  chcr : Word
  tadr : Word
  phase : DmaPhase
  remaining : Word
deriving DecidableEq, Repr

/-- The IOP DMAC: thirteen channels and the control registers (R520). -/
structure IopDmac where
  ch : Vector IopChannel 13
  dpcr : Word
  dicr : Word
  dpcr2 : Word
  dicr2 : Word
deriving DecidableEq, Repr

/-- An EE timer (R540 to R542) with its hidden prescaler `pre`. -/
structure EeTimer where
  count : BitVec 16
  mode : Word
  comp : BitVec 16
  hold : BitVec 16
  pre : Nat
deriving DecidableEq, Repr

/-- An IOP timer (R570, R571). -/
structure IopTimer where
  count : Word
  mode : Word
  target : Word
deriving DecidableEq, Repr

/-! ## Scheduler, histories, inputs and the frame driver (60_exceptions.md sections 18 to 20) -/

/-- The kinds of event (R590). -/
inductive EventKind where
  | vblankStart
  | vblankEnd
  | hblank
deriving DecidableEq, Repr

/-- A scheduler event (R580). -/
structure Event where
  deadline : BitVec 64
  id : Option Nat
  kind : EventKind
deriving DecidableEq, Repr

/-- The scheduler (R580). -/
structure Sched where
  now : BitVec 64
  queue : List Event
deriving DecidableEq, Repr

/-- A unit that a DMAC gave to a peripheral port (R473). -/
inductive DmaUnit where
  | quad (ch : Nat) (q : Quad)
  | word (ch : Nat) (w : Word)
deriving DecidableEq, Repr

/-- A write to an external range (20_memory.md R123). -/
structure ExtWrite where
  cpu : Cpu
  pa : Word
  n : Nat
  value : Quad
deriving DecidableEq, Repr

/-- A request of the input `ext_irq`: a source of one of the two controllers (R453, R451, R461). -/
inductive IrqRequest where
  | ee (source : Fin 15)
  | iop (source : Fin 26)
deriving DecidableEq, Repr

/-- Whose turn it is inside the quantum of the frame driver (R583). The scheduler phase is `scheduler` (the external
requests and `Tick`) followed by `events` (the due events, one a step). -/
inductive Turn where
  | cpu (c : Cpu)
  | eeDmac
  | eeTimers
  | iopDmac
  | iopTimers
  | scheduler
  | events
deriving DecidableEq, Repr

/-- The state of the block. -/
structure State where
  ee : EeCore
  iop : IopCore
  mem : Memory
  eeIntc : EeIntc
  iopIntc : IopIntc
  eeDmac : EeDmac
  iopDmac : IopDmac
  eeTimers : Vector EeTimer 4
  iopTimers : Vector IopTimer 6
  sched : Sched
  /-- DMA output history (R473), oldest first -/
  dmaOut : List DmaUnit
  /-- external-write history (20_memory.md R123), oldest first -/
  extWrites : List ExtWrite
  /-- the input `ext_irq` of the coming quanta (R453); the empty set beyond its end -/
  extIrq : List (List IrqRequest)
  /-- how many draws have been taken (R24) -/
  draws : Nat
  /-- the agent that steps next -/
  turn : Turn
  /-- how many steps, ticks or cycles that agent has done in this quantum -/
  ticks : Nat
  /-- EE cycles of the current frame consumed by finished quanta (R583) -/
  elapsed : Nat
deriving DecidableEq, Repr

/-! ## Reset (70_reset_and_hazards.md R600) -/

/-- A core's control state after reset, with its boot vector. -/
def CpuCtl.reset (bootVector : Word) : CpuCtl :=
  { pc := bootVector, branchPending := false, inDelaySlot := false, branchTarget := 0, status := 0, cause := 0, epc := 0 }

/-- The EE core after reset (10_state.md R63). -/
def EeCore.reset : EeCore :=
  { gpr := Vector.replicate 32 0, hi := 0, lo := 0, ctl := CpuCtl.reset Config.eeBootVector,
    errorEpc := 0, count := 0, compare := 0 }

/-- The IOP core after reset (10_state.md R63). -/
def IopCore.reset : IopCore :=
  { gpr := Vector.replicate 32 0, hi := 0, lo := 0, ctl := CpuCtl.reset Config.iopBootVector }

/-- An EE DMA channel after reset (R470, R482). -/
def EeChannel.reset : EeChannel :=
  { chcr := 0, madr := 0, qwc := 0, tadr := 0, asr0 := 0, asr1 := 0, sadr := 0, phase := .idle, chainEnd := false }

/-- The EE DMAC after reset (R481, R483). -/
def EeDmac.reset : EeDmac :=
  { ch := Vector.replicate 10 EeChannel.reset, dCtrl := 0, dStat := 0, dPcr := 0, dSqwc := 0, dRbsr := 0, dRbor := 0,
    dEnablew := 0 }

/-- An IOP DMA channel after reset (R520, R522). -/
def IopChannel.reset : IopChannel :=
  { madr := 0, bcr := 0, chcr := 0, tadr := 0, phase := .idle, remaining := 0 }

/-- The IOP DMAC after reset (R520). -/
def IopDmac.reset : IopDmac :=
  { ch := Vector.replicate 13 IopChannel.reset, dpcr := 0, dicr := 0, dpcr2 := 0, dicr2 := 0 }

/-- An EE timer after reset (R541, R542). -/
def EeTimer.reset : EeTimer := { count := 0, mode := 0, comp := 0, hold := 0, pre := 0 }

/-- An IOP timer after reset (R570). -/
def IopTimer.reset : IopTimer := { count := 0, mode := 0, target := 0 }

/-- The scheduler after reset: the three events inserted in the order VblankStart, VblankEnd, Hblank, so sorted
with Hblank first (R593, R600). -/
def Sched.reset : Sched :=
  { now := 0,
    queue := [
      { deadline := BitVec.ofNat 64 Config.hblankCycles, id := none, kind := .hblank },
      { deadline := BitVec.ofNat 64 Config.vblankStartAt, id := none, kind := .vblankStart },
      { deadline := BitVec.ofNat 64 Config.vblankEndAt, id := none, kind := .vblankEnd } ] }

/-- The block right after reset, with no BIOS image loaded (the host supplies one with `State.loadBios`). -/
def State.reset : State :=
  { ee := EeCore.reset, iop := IopCore.reset, mem := [],
    eeIntc := { stat := 0, mask := 0 }, iopIntc := { stat := 0, mask := 0, ctrl := 0 },
    eeDmac := EeDmac.reset, iopDmac := IopDmac.reset,
    eeTimers := Vector.replicate 4 EeTimer.reset, iopTimers := Vector.replicate 6 IopTimer.reset,
    sched := Sched.reset, dmaOut := [], extWrites := [], extIrq := [], draws := 0,
    turn := .cpu .ee, ticks := 0, elapsed := 0 }

end Sys2Proof.Machine
end

