-- ==== Sys2Proof/Machine/Memory.lean ====
section
/-! DEFINITION. Memory: one list of cells for all the buffers of 20_memory.md R107, in one canonical form, and
little-endian accesses built from byte accesses (R110, R111, R130). -/

namespace Sys2Proof.Machine

/-- The key of byte 0 of a buffer: the physical address at which the buffer stands. No two buffers overlap
(20_memory.md R106, R107). -/
def bufBase : Buf → Nat
  | .eeRam => 0x00000000
  | .iopRam => 0x1C000000
  | .iopSpr => 0x1F800000
  | .bios => 0x1FC00000
  | .eeSpr => 0x70000000

/-- What a cell that no list entry names reads as: RAM and the scratchpads are zero after reset
(20_memory.md R108), and a byte the BIOS image does not give is taken as zero (log 1). -/
def unlistedByte : Byte := 0

/-- The canonical form: keys strictly rising, and no cell equal to what an unlisted cell reads as. -/
abbrev Memory.wf (m : Memory) : Prop :=
  m.Pairwise (fun c d => c.1 < d.1) ∧ ∀ c ∈ m, c.2 ≠ unlistedByte

/-- The byte at a key. -/
def Memory.read : Memory → Nat → Byte
  | [], _ => unlistedByte
  | (k, v) :: m, a => if k = a then v else Memory.read m a

/-- The list without the cell of a key. -/
def Memory.erase (m : Memory) (a : Nat) : Memory := m.filter (fun c => c.1 != a)

/-- A cell put in its place, before the first greater key. -/
def Memory.insert : Memory → Nat → Byte → Memory
  | [], a, v => [(a, v)]
  | (k, w) :: m, a, v => if a < k then (a, v) :: (k, w) :: m else (k, w) :: Memory.insert m a v

/-- A byte written at a key; writing what an unlisted cell reads as removes the cell. -/
def Memory.write (m : Memory) (a : Nat) (v : Byte) : Memory :=
  if v = unlistedByte then m.erase a else (m.erase a).insert a v

/-- The `n`-byte value whose byte `k` is at key `a + k`: `LE(buf, o, n)` of 20_memory.md R110. -/
def Memory.readLE (m : Memory) (a : Nat) : Nat → Quad
  | 0 => 0
  | n + 1 => ((Memory.readLE m (a + 1) n) <<< 8) ||| (m.read a).setWidth 128

/-- The low `n` bytes of a value written from key `a` on, byte `k` at key `a + k` (20_memory.md R111). -/
def Memory.writeLE (m : Memory) (a : Nat) : Nat → Quad → Memory
  | 0, _ => m
  | n + 1, v => Memory.writeLE (m.write a (v.setWidth 8)) (a + 1) n (v >>> 8)

/-- A list of bytes written from key `a` on. -/
def Memory.writeBytes (m : Memory) (a : Nat) : List Byte → Memory
  | [] => m
  | b :: bs => Memory.writeBytes (m.write a b) (a + 1) bs

end Sys2Proof.Machine
end

