-- ==== Sys2Proof/Machine/Address.lean ====
section
/-! DEFINITION. Address translation and the page tables (20_memory.md sections 1 and 2). -/

namespace Sys2Proof.Machine

/-- `ee_translate` (20_memory.md R101): scratchpad window, uncached window, physical mask. -/
def eeTranslate (va : Word) : Word :=
  if Config.eeSprBase ≤ va.toNat ∧ va.toNat < Config.eeSprBase + Config.eeSprSize then va
  else if Config.eeAliasBase ≤ va.toNat ∧ va.toNat < Config.eeAliasBase + Config.eeAliasSize then
    va &&& Config.eeAliasMask
  else va &&& Config.physMask

/-- `iop_translate` (20_memory.md R102). -/
def iopTranslate (va : Word) : Word := va &&& Config.physMask

/-- The translation of a CPU. -/
def translate : Cpu → Word → Word
  | .ee => eeTranslate
  | .iop => iopTranslate

/-- The address at which the 4 KiB page of a physical address begins (20_memory.md R104). -/
def pageStart (pa : Word) : Nat := pa.toNat / 4096 * 4096

/-- The region installs an entry for the page of `pa` (20_memory.md R105). -/
def regionCovers (r : Region) (pa : Word) : Bool :=
  r.base ≤ pageStart pa && pageStart pa < r.base + r.size

/-- The page-table entry of a physical address on a CPU's side, or none where it is absent
(20_memory.md R104 to R107). -/
def pageEntry (c : Cpu) (pa : Word) : Option Region :=
  (Config.regions c).find? (fun r => regionCovers r pa)

/-- The key of the byte at `pa` in the page of a region: byte `pa & mask` of its buffer (20_memory.md R105). -/
def regionKey (r : Region) (pa : Word) : Nat := bufBase r.buf + (pa &&& r.mask).toNat

end Sys2Proof.Machine
end

