-- ==== Sys2Proof/Machine/Bits.lean ====
section
/-! DEFINITION. Bit and field helpers over words and quadwords (00_scope.md R14, R15). -/

namespace Sys2Proof.Machine

/-- Bit `i` of a word set to `b`. -/
def setBit (v : Word) (i : Nat) (b : Bool) : Word :=
  if b then v ||| (1#32 <<< i) else v &&& ~~~(1#32 <<< i)

/-- The bits of `new` where `mask` is 1, those of `old` where it is 0. -/
def mergeBits (mask old new : Word) : Word := (old &&& ~~~mask) ||| (new &&& mask)

/-- The low `n` bytes of a quadword, zero-extended. -/
def truncBytes (n : Nat) (v : Quad) : Quad := (v.setWidth (8 * n)).setWidth 128

end Sys2Proof.Machine
end

