-- ==== Sys2Proof/Machine/Outcome.lean ====
section
/-! DEFINITION. The outcome of a step or of a part of one, how parts follow one another, and the draw. -/

namespace Sys2Proof.Machine

/-- What a step, a tick or a meaning answers. -/
abbrev Out := Host.Outcome State Fault Refusal

/-- `k` follows `o`; a fault or a refusal stops there (00_scope.md R22, R23). -/
def andThen (o : Out) (k : State → Out) : Out :=
  match o with
  | .next s => k s
  | .fault r => .fault r
  | .refused r => .refused r

/-- What a read answers: a value and the state after it, for a device read may change state (20_memory.md R133). -/
inductive Loaded where
  | value (v : Quad) (s : State)
  | fault (r : Fault)

/-- `k` uses the value read; a fault stops there. -/
def useLoaded (l : Loaded) (k : Quad → State → Out) : Out :=
  match l with
  | .value v s => k v s
  | .fault r => .fault r

/-- A draw is taken (00_scope.md R24). -/
def State.afterDraw (s : State) : State := { s with draws := s.draws + 1 }

/-- The value of the draw that comes next (00_scope.md R24). -/
def State.nextDraw (s : State) : Quad := Config.draw s.draws

end Sys2Proof.Machine
end

