-- ==== Sys2Proof/Machine/Intc.lean ====
section
/-! DEFINITION. The interrupt controllers and the interrupt lines (60_exceptions.md sections 9 and 10,
R503, R526; 10_state.md R61). -/

namespace Sys2Proof.Machine

/-- `EeIntc.RequestInterrupt(s)` (R451). -/
def State.requestEe (s : State) (source : Nat) : State :=
  { s with eeIntc := { s.eeIntc with stat := s.eeIntc.stat ||| (1#15 <<< source) } }

/-- `IopIntc.RequestInterrupt(s)` (R461). -/
def State.requestIop (s : State) (source : Nat) : State :=
  { s with iopIntc := { s.iopIntc with stat := s.iopIntc.stat ||| (1#32 <<< source) } }

/-- A request of the input `ext_irq` (R453). -/
def State.requestExternal (s : State) : IrqRequest → State
  | .ee source => s.requestEe source.val
  | .iop source => s.requestIop source.val

/-- INT0, the level of the EE INTC (R452). -/
def State.eeInt0 (s : State) : Bool := s.eeIntc.stat &&& s.eeIntc.mask != 0

/-- INT1, the level of the EE DMAC, computed from D_STAT (R503). -/
def State.eeInt1 (s : State) : Bool :=
  let d := s.eeDmac.dStat
  (d.extractLsb' 0 10 &&& d.extractLsb' 16 10 != 0) || (d.getLsbD 13 && d.getLsbD 29)
    || (d.getLsbD 14 && d.getLsbD 30) || d.getLsbD 15

/-- The level of the IOP INTC; I_CTRL does not gate it (R462). -/
def State.iopLine (s : State) : Bool := s.iopIntc.stat &&& s.iopIntc.mask != 0

/-- The level of the IOP DMAC (R526): the force bit of DICR, or a flag whose mask is set. -/
def State.iopDmaLine (s : State) : Bool :=
  let a := s.iopDmac.dicr
  let b := s.iopDmac.dicr2
  a.getLsbD 15 || (a.extractLsb' 24 7 &&& a.extractLsb' 16 7 != 0) || (b.extractLsb' 24 6 &&& b.extractLsb' 16 6 != 0)

/-- `IopDmaLineUpdate()`: while the line is 1, IOP INTC source 3 is requested (R526, R527). -/
def State.iopDmaLineUpdate (s : State) : State := if s.iopDmaLine then s.requestIop 3 else s

/-- A write of INTC_STAT acknowledges (R450). -/
def State.writeEeStat (s : State) (v : Word) : State :=
  { s with eeIntc := { s.eeIntc with stat := s.eeIntc.stat &&& ~~~(v.setWidth 15) } }

/-- A write of INTC_MASK toggles (R450). -/
def State.writeEeMask (s : State) (v : Word) : State :=
  { s with eeIntc := { s.eeIntc with mask := s.eeIntc.mask ^^^ v.setWidth 15 } }

/-- A write of I_STAT acknowledges (R460). -/
def State.writeIopStat (s : State) (v : Word) : State :=
  { s with iopIntc := { s.iopIntc with stat := s.iopIntc.stat &&& ~~~v } }

/-- A write of I_MASK assigns (R460). -/
def State.writeIopMask (s : State) (v : Word) : State := { s with iopIntc := { s.iopIntc with mask := v } }

/-- A write of I_CTRL stores (R460, R463). -/
def State.writeIopCtrl (s : State) (v : Word) : State := { s with iopIntc := { s.iopIntc with ctrl := v } }

end Sys2Proof.Machine
end

