-- ==== Sys2Proof/Machine/Dmac.lean ====
section
/-! DEFINITION. The two DMA controllers: their registers' write effects, the channel state machines and the
descriptor fetcher (60_exceptions.md sections 11 to 14), and their path to memory (20_memory.md R134). -/

namespace Sys2Proof.Machine

/-! ## Ports (R473) -/

/-- A unit appended to the DMA output history. -/
def State.emitDma (s : State) (u : DmaUnit) : State := { s with dmaOut := s.dmaOut ++ [u] }

/-- The ready bit of a channel's port in this tick, with the state after it: always ready, or a draw. -/
def portReady (mode : DmaReady) (s : State) : Bool × State :=
  match mode with
  | .always => (true, s)
  | .draw => (s.nextDraw.getLsbD 0, s.afterDraw)

/-! ## The memory path (R474, 20_memory.md R134) -/

/-- The key of the quadword at a DMA address on the EE side: bit 31 selects the scratchpad at offset
`addr & 0x3FF0`, else the EE page table serves it; none where the entry is absent, or read-only for a write. -/
def eeDmaKey (write : Bool) (addr : Word) : Option Nat :=
  if addr.getLsbD 31 then some (bufBase .eeSpr + (addr &&& 0x3FF0#32).toNat)
  else
    match pageEntry .ee addr with
    | some r => if write && !r.writable then none else some (regionKey r addr)
    | none => none

/-- The key of one byte at a DMA address on the IOP side. -/
def iopDmaByteKey (write : Bool) (addr : Word) : Option Nat :=
  match pageEntry .iop addr with
  | some r => if write && !r.writable then none else some (regionKey r addr)
  | none => none

/-- `DmaRead16`. -/
def dmaRead16 (s : State) (addr : Word) : Loaded :=
  match eeDmaKey false addr with
  | some k => .value (s.mem.readLE k 16) s
  | none => .fault (.unmappedAccess addr 16 false)

/-- `DmaWrite16`. -/
def dmaWrite16 (s : State) (addr : Word) (q : Quad) : Out :=
  match eeDmaKey true addr with
  | some k => .next { s with mem := s.mem.writeLE k 16 q }
  | none => .fault (.unmappedAccess addr 16 true)

/-- `DmaRead4`: the byte at `addr + k` is byte `k` (log 11 for an address that is no multiple of 4). -/
def dmaRead4 (s : State) (addr : Word) : Loaded :=
  match iopDmaByteKey false addr, iopDmaByteKey false (addr + 1), iopDmaByteKey false (addr + 2),
      iopDmaByteKey false (addr + 3) with
  | some k0, some k1, some k2, some k3 =>
    .value ((s.mem.read k3 ++ s.mem.read k2 ++ s.mem.read k1 ++ s.mem.read k0).setWidth 128) s
  | _, _, _, _ => .fault (.unmappedAccess addr 4 false)

/-- `DmaWrite4`: byte `k` is written at `addr + k` (log 11 for an address that is no multiple of 4). -/
def dmaWrite4 (s : State) (addr : Word) (w : Word) : Out :=
  match iopDmaByteKey true addr, iopDmaByteKey true (addr + 1), iopDmaByteKey true (addr + 2),
      iopDmaByteKey true (addr + 3) with
  | some k0, some k1, some k2, some k3 =>
    .next { s with mem := (((s.mem.write k0 (w.extractLsb' 0 8)).write k1 (w.extractLsb' 8 8)).write k2
      (w.extractLsb' 16 8)).write k3 (w.extractLsb' 24 8) }
  | _, _, _, _ => .fault (.unmappedAccess addr 4 true)

/-! ## EE channels: registers (R480, R482, R490) -/

/-- The stored bits of CHCR: 31:16, 8:2 and 0 (R482). -/
def eeChcrMask : Word := 0xFFFF01FD#32
/-- The stored bits of MADR, TADR, ASR0 and ASR1: 31:4 (R482). -/
def eeAddrMask : Word := 0xFFFFFFF0#32
/-- The stored bits of SADR: 13:4 (R482). -/
def eeSadrMask : Word := 0x00003FF0#32

/-- CHCR.DIR (R482). -/
def eeDir (chcr : Word) : Bool := chcr.getLsbD 0
/-- CHCR.MOD (R482). -/
def eeMod (chcr : Word) : BitVec 2 := chcr.extractLsb' 2 2
/-- CHCR.ASP (R482). -/
def eeAsp (chcr : Word) : BitVec 2 := chcr.extractLsb' 4 2
/-- CHCR.TTE (R482). -/
def eeTte (chcr : Word) : Bool := chcr.getLsbD 6
/-- CHCR.TIE (R482). -/
def eeTie (chcr : Word) : Bool := chcr.getLsbD 7
/-- CHCR.STR (R482). -/
def eeStr (chcr : Word) : Bool := chcr.getLsbD 8
/-- CHCR with ASP replaced. -/
def eeSetAsp (chcr : Word) (asp : BitVec 2) : Word :=
  mergeBits 0x00000030#32 chcr ((asp.setWidth 32) <<< 4)

/-- A channel's registers replaced. -/
def State.setEeChannel (s : State) (ch : Fin 10) (c : EeChannel) : State :=
  { s with eeDmac := { s.eeDmac with ch := s.eeDmac.ch.set ch.val c ch.isLt } }

/-- A channel of the EE DMAC. -/
def State.eeChannel (s : State) (ch : Fin 10) : EeChannel := s.eeDmac.ch[ch.val]

/-- `direction(ch)`: from memory (R480, R490). -/
def eeFromMemory (ch : Fin 10) (chcr : Word) : Bool :=
  match ch.val with
  | 0 | 1 | 2 | 7 => eeDir chcr
  | 3 | 5 | 8 => false
  | _ => true

/-- A write of CHCR: a store, a stop, or a start with its checks (R482, R490). -/
def writeEeChcr (ch : Fin 10) (v : Word) (s : State) : Out :=
  let c := s.eeChannel ch
  let new := v &&& eeChcrMask
  if eeStr new = false then .next (s.setEeChannel ch { c with chcr := new, phase := .idle })
  else if eeStr c.chcr then .next (s.setEeChannel ch { c with chcr := new })
  else if (Config.implementedChannels .ee).contains ch.val = false then .fault (.dmaUnimplemented .ee ch.val)
  else
    match (eeMod new).toNat with
    | 0 => .next (s.setEeChannel ch { c with chcr := new, phase := .active, chainEnd := true })
    | 1 =>
      if eeFromMemory ch new && ch.val != 8 then
        .next (s.setEeChannel ch
          { c with chcr := new, chainEnd := false, phase := if c.qwc = 0 then .tagFetch else .active })
      else .refused (.dmaMode .ee ch.val .destChain)
    | 2 => .refused (.dmaMode .ee ch.val .interleave)
    | _ => .fault (.dmaBadControl .ee ch.val new)

/-- A write of D_STAT: status bits clear and mask bits toggle where a 1 is written (R483). -/
def writeDStat (v : Word) (s : State) : State :=
  { s with eeDmac := { s.eeDmac with
      dStat := (s.eeDmac.dStat &&& ~~~(v &&& 0x0000E3FF#32)) ^^^ (v &&& 0x63FF0000#32) } }

/-! ## EE channels: the state machine (R491 to R497) -/

/-- `Complete(ch)` (R497). -/
def eeComplete (ch : Fin 10) (s : State) : State :=
  let c := s.eeChannel ch
  let t := s.setEeChannel ch { c with chcr := setBit c.chcr 8 false, phase := .idle }
  { t with eeDmac := { t.eeDmac with dStat := setBit t.eeDmac.dStat ch.val true } }

/-- The scratchpad key of SADR. -/
def sprKey (sadr : Word) : Nat := bufBase .eeSpr + (sadr &&& eeSadrMask).toNat

/-- SADR after a quadword (R492). -/
def nextSadr (sadr : Word) : Word := (sadr + 16) &&& eeSadrMask

/-- Moving one quadword, by channel (R492). -/
def eeMoveQuad (ch : Fin 10) (s : State) : Out :=
  let c := s.eeChannel ch
  match ch.val with
  | 8 =>
    andThen (dmaWrite16 s c.madr (s.mem.readLE (sprKey c.sadr) 16)) fun t =>
      .next (t.setEeChannel ch { c with sadr := nextSadr c.sadr })
  | 9 =>
    useLoaded (dmaRead16 s c.madr) fun q t =>
      .next (({ t with mem := t.mem.writeLE (sprKey c.sadr) 16 q } : State).setEeChannel ch
        { c with sadr := nextSadr c.sadr })
  | _ =>
    if eeFromMemory ch c.chcr then
      useLoaded (dmaRead16 s c.madr) fun q t => .next (t.emitDma (.quad ch.val q))
    else dmaWrite16 s.afterDraw c.madr s.nextDraw

/-- MADR and QWC after a quadword (R491). -/
def eeAdvance (ch : Fin 10) (s : State) : State :=
  let c := s.eeChannel ch
  s.setEeChannel ch { c with madr := c.madr + 16, qwc := c.qwc - 1 }

/-- The test on QWC at the end of an Active tick (R491). -/
def eeCheckDone (ch : Fin 10) (s : State) : State :=
  let c := s.eeChannel ch
  if c.qwc = 0 then
    if c.chainEnd then eeComplete ch s else s.setEeChannel ch { c with phase := .tagFetch }
  else s

/-- One tick in phase Active (R491). -/
def eeActiveTick (ch : Fin 10) (s : State) : Out :=
  if (s.eeChannel ch).qwc = 0 then .next (eeCheckDone ch s)
  else
    match portReady Config.dmaReady s with
    | (false, t) => .next t
    | (true, t) => andThen (eeMoveQuad ch t) fun u => .next (eeCheckDone ch (eeAdvance ch u))

/-- A tag of the source chain applied to a channel whose QWC is already the tag's (R494, R495): none is a full
address stack, or an address-stack pointer of 3 (log 10). -/
def eeApplyTag (c : EeChannel) (id : BitVec 3) (addr : Word) : Option EeChannel :=
  let t := c.tadr
  let next := t + 16
  let after := t + 16 + ((c.qwc.setWidth 32) <<< 4)
  match id.toNat with
  | 0 => some { c with madr := addr, tadr := next, chainEnd := true }
  | 1 => some { c with madr := next, tadr := after }
  | 2 => some { c with madr := next, tadr := addr }
  | 3 => some { c with madr := addr, tadr := next }
  | 4 => some { c with madr := addr, tadr := next }
  | 5 =>
    match (eeAsp c.chcr).toNat with
    | 0 => some { c with madr := next, tadr := addr, asr0 := after, chcr := eeSetAsp c.chcr 1 }
    | 1 => some { c with madr := next, tadr := addr, asr1 := after, chcr := eeSetAsp c.chcr 2 }
    | _ => none
  | 6 =>
    match (eeAsp c.chcr).toNat with
    | 0 => some { c with madr := next, chainEnd := true }
    | 1 => some { c with madr := next, tadr := c.asr0, chcr := eeSetAsp c.chcr 0 }
    | 2 => some { c with madr := next, tadr := c.asr1, chcr := eeSetAsp c.chcr 1 }
    | _ => none
  | _ => some { c with madr := next, chainEnd := true }

/-- The tag's QWC and its bits 31:16 taken into the channel (R493). -/
def eeLoadTag (c : EeChannel) (tag : Quad) : EeChannel :=
  { c with qwc := tag.extractLsb' 0 16,
           chcr := mergeBits 0xFFFF0000#32 c.chcr (tag.extractLsb' 0 32) }

/-- One tick in phase TagFetch, once the tag is read (R493). -/
def eeTagTick (ch : Fin 10) (tag : Quad) (s : State) : Out :=
  let c := eeLoadTag (s.eeChannel ch) tag
  let s := if eeTte c.chcr && ch.val ≤ 7 then s.emitDma (.quad ch.val tag) else s
  match eeApplyTag c (tag.extractLsb' 28 3) (tag.extractLsb' 32 32 &&& eeAddrMask) with
  | none => .fault (.dmaBadControl .ee ch.val c.chcr)
  | some d =>
    .next (s.setEeChannel ch
      { d with chainEnd := d.chainEnd || (tag.getLsbD 31 && eeTie d.chcr), phase := .active })

/-- One tick of one EE channel: nothing where its start bit is clear (R471). -/
def eeChannelTick (ch : Fin 10) (s : State) : Out :=
  let c := s.eeChannel ch
  if eeStr c.chcr = false then .next s
  else
    match c.phase with
    | .idle => .next s
    | .active => eeActiveTick ch s
    | .tagFetch => useLoaded (dmaRead16 s c.tadr) (eeTagTick ch)

/-- The EE channels of a list, one tick each, in the list's order. -/
def eeChannelsTick : List (Fin 10) → State → Out
  | [], s => .next s
  | ch :: chs, s => andThen (eeChannelTick ch s) (eeChannelsTick chs)

/-- One tick of the EE DMAC: every channel in index order (R471). -/
def eeDmacTick (s : State) : Out := eeChannelsTick [0, 1, 2, 3, 4, 5, 6, 7, 8, 9] s

/-! ## IOP channels (R520 to R526) -/

/-- A channel of the IOP DMAC. -/
def State.iopChannel (s : State) (ch : Fin 13) : IopChannel := s.iopDmac.ch[ch.val]

/-- A channel's registers replaced. -/
def State.setIopChannel (s : State) (ch : Fin 13) (c : IopChannel) : State :=
  { s with iopDmac := { s.iopDmac with ch := s.iopDmac.ch.set ch.val c ch.isLt } }

/-- CHCR's start bit (R521). -/
def iopStart (chcr : Word) : Bool := chcr.getLsbD 24

/-- The word count of a start in sync mode 0 (R522). -/
def iopBurstCount (bcr : Word) : Word :=
  if bcr.extractLsb' 0 16 = 0 then 0x10000#32 else (bcr.extractLsb' 0 16).setWidth 32

/-- The word count of a start in sync mode 1 (R522). -/
def iopBlockCount (bcr : Word) : Word :=
  (bcr.extractLsb' 0 16).setWidth 32 * (bcr.extractLsb' 16 16).setWidth 32

/-- A write of CHCR: a store, a stop, or a start with its checks (R521, R522). -/
def writeIopChcr (ch : Fin 13) (v : Word) (s : State) : Out :=
  let c := s.iopChannel ch
  if iopStart v = false then .next (s.setIopChannel ch { c with chcr := v, phase := .idle })
  else if iopStart c.chcr then .next (s.setIopChannel ch { c with chcr := v })
  else if (Config.implementedChannels .iop).contains ch.val = false then .fault (.dmaUnimplemented .iop ch.val)
  else
    match (v.extractLsb' 9 2).toNat with
    | 0 => .next (s.setIopChannel ch { c with chcr := v, phase := .active, remaining := iopBurstCount c.bcr })
    | 1 => .next (s.setIopChannel ch { c with chcr := v, phase := .active, remaining := iopBlockCount c.bcr })
    | _ => .refused (.dmaMode .iop ch.val (.iopSync (v.extractLsb' 9 2)))

/-- The completion flag of a channel set in DICR or DICR2 (R524). -/
def State.setIopDmaFlag (s : State) (ch : Fin 13) : State :=
  if ch.val ≤ 6 then
    { s with iopDmac := { s.iopDmac with dicr := setBit s.iopDmac.dicr (24 + ch.val) true } }
  else { s with iopDmac := { s.iopDmac with dicr2 := setBit s.iopDmac.dicr2 (24 + ch.val - 7) true } }

/-- `IopComplete(ch)` (R524). -/
def iopComplete (ch : Fin 13) (s : State) : State :=
  let c := s.iopChannel ch
  let t := s.setIopChannel ch { c with chcr := setBit (setBit c.chcr 24 false) 28 false, phase := .idle }
  (t.setIopDmaFlag ch).iopDmaLineUpdate

/-- The end of an Active tick: completion where no word remains (R523). -/
def iopCheckDone (ch : Fin 13) (s : State) : State :=
  if (s.iopChannel ch).remaining = 0 then iopComplete ch s else s

/-- Moving one word (R523): CHCR.DIR says which way. -/
def iopMoveWord (ch : Fin 13) (s : State) : Out :=
  let c := s.iopChannel ch
  if c.chcr.getLsbD 0 then
    useLoaded (dmaRead4 s c.madr) fun q t => .next (t.emitDma (.word ch.val (q.setWidth 32)))
  else dmaWrite4 s.afterDraw c.madr (s.nextDraw.setWidth 32)

/-- MADR and `remaining` after a word (R523). -/
def iopAdvance (ch : Fin 13) (s : State) : State :=
  let c := s.iopChannel ch
  s.setIopChannel ch
    { c with madr := if c.chcr.getLsbD 1 then c.madr - 4 else c.madr + 4, remaining := c.remaining - 1 }

/-- One tick in phase Active (R523). -/
def iopActiveTick (ch : Fin 13) (s : State) : Out :=
  if (s.iopChannel ch).remaining = 0 then .next (iopCheckDone ch s)
  else
    match portReady Config.dmaReady s with
    | (false, t) => .next t
    | (true, t) => andThen (iopMoveWord ch t) fun u => .next (iopCheckDone ch (iopAdvance ch u))

/-- One tick of one IOP channel: nothing where its start bit is clear (R471). -/
def iopChannelTick (ch : Fin 13) (s : State) : Out :=
  let c := s.iopChannel ch
  if iopStart c.chcr = false then .next s
  else
    match c.phase with
    | .active => iopActiveTick ch s
    | _ => .next s

/-- The IOP channels of a list, one tick each, in the list's order. -/
def iopChannelsTick : List (Fin 13) → State → Out
  | [], s => .next s
  | ch :: chs, s => andThen (iopChannelTick ch s) (iopChannelsTick chs)

/-- One tick of the IOP DMAC: every channel in index order (R471). -/
def iopDmacTick (s : State) : Out := iopChannelsTick [0, 1, 2, 3, 4, 5, 6, 7, 8, 9, 10, 11, 12] s

/-- What DICR reads as: the stored bits, with bit 31 the line (R525). -/
def State.readDicr (s : State) : Word := setBit s.iopDmac.dicr 31 s.iopDmaLine

/-- A write of DICR: flags clear where a 1 is written, bit 31 is ignored, the rest is stored (R525). -/
def writeDicr (v : Word) (s : State) : State :=
  let old := s.iopDmac.dicr
  State.iopDmaLineUpdate { s with iopDmac := { s.iopDmac with
    dicr := (v &&& 0x00FFFFFF#32) ||| (old &&& ~~~v &&& 0x7F000000#32) } }

/-- A write of DICR2 (R525). -/
def writeDicr2 (v : Word) (s : State) : State :=
  let old := s.iopDmac.dicr2
  State.iopDmaLineUpdate { s with iopDmac := { s.iopDmac with
    dicr2 := (v &&& 0x00FFFFFF#32) ||| (old &&& ~~~v &&& 0x3F000000#32) } }

end Sys2Proof.Machine
end

