-- ==== Sys2Proof/Machine/Timers.lean ====
section
/-! DEFINITION. The EE and IOP timer blocks (60_exceptions.md sections 15 and 17). -/

namespace Sys2Proof.Machine

/-! ## EE timers (R540 to R545) -/

/-- An EE timer. -/
def State.eeTimer (s : State) (n : Fin 4) : EeTimer := s.eeTimers[n.val]

/-- An EE timer replaced. -/
def State.setEeTimer (s : State) (n : Fin 4) (t : EeTimer) : State :=
  { s with eeTimers := s.eeTimers.set n.val t n.isLt }

/-- T_MODE.CLKS (R541). -/
def timerClks (mode : Word) : BitVec 2 := mode.extractLsb' 0 2
/-- T_MODE.CUE (R541). -/
def timerCue (mode : Word) : Bool := mode.getLsbD 7

/-- Bus cycles per count, by CLKS 0, 1 and 2 (R543). -/
def timerDiv (clks : BitVec 2) : Nat :=
  match clks.toNat with
  | 0 => 1
  | 1 => 16
  | _ => 256

/-- A flag of T_MODE raised with its request, only where the enable is 1 and the flag was 0 (R544, R545). -/
def eeTimerFlag (n : Fin 4) (enable flag : Nat) (s : State) : State :=
  let t := s.eeTimer n
  if t.mode.getLsbD enable && !t.mode.getLsbD flag then
    (s.setEeTimer n { t with mode := setBit t.mode flag true }).requestEe (9 + n.val)
  else s

/-- The count has reached T_COMP: the equal flag, then zero return (R544). -/
def eeTimerEqual (n : Fin 4) (s : State) : State :=
  let s := eeTimerFlag n 8 10 s
  let t := s.eeTimer n
  if t.mode.getLsbD 6 then s.setEeTimer n { t with count := 0 } else s

/-- `EeTimerIncrement(n)` (R544). -/
def eeTimerIncrement (n : Fin 4) (s : State) : State :=
  let t := s.eeTimer n
  let ovf : Bool := t.count = 0xFFFF#16
  let s := s.setEeTimer n { t with count := t.count + 1 }
  let s := if t.count + 1 = t.comp then eeTimerEqual n s else s
  if ovf then eeTimerFlag n 9 11 s else s

/-- One bus cycle of one EE timer (R543). -/
def eeTimerCycle (n : Fin 4) (s : State) : State :=
  let t := s.eeTimer n
  if timerCue t.mode && timerClks t.mode != 3 then
    if t.pre + 1 = timerDiv (timerClks t.mode) then eeTimerIncrement n (s.setEeTimer n { t with pre := 0 })
    else s.setEeTimer n { t with pre := t.pre + 1 }
  else s

/-- One bus cycle of the EE timer block, timers in order (R543). -/
def eeTimersCycle (s : State) : State :=
  eeTimerCycle 3 (eeTimerCycle 2 (eeTimerCycle 1 (eeTimerCycle 0 s)))

/-- One EE timer at an hblank event: it counts where CUE = 1 and CLKS = 3 (R592). -/
def eeTimerHblank (n : Fin 4) (s : State) : State :=
  let t := s.eeTimer n
  if timerCue t.mode && timerClks t.mode == 3 then eeTimerIncrement n s else s

/-- The EE timers at an hblank event, in order (R592). -/
def eeTimersHblank (s : State) : State :=
  eeTimerHblank 3 (eeTimerHblank 2 (eeTimerHblank 1 (eeTimerHblank 0 s)))

/-- A write of T_MODE: GATE = 1 faults; bits 9:0 are stored, a 1 clears EQUF and OVFF (R541). -/
def writeTMode (n : Fin 4) (v : Word) (s : State) : Out :=
  let t := s.eeTimer n
  if v.getLsbD 2 then .fault (.timerGate .ee n.val)
  else .next (s.setEeTimer n { t with mode := (v &&& 0x000003FF#32) ||| (t.mode &&& ~~~v &&& 0x00000C00#32) })

/-- A write of T_COUNT, which also clears the prescaler (R542). -/
def writeTCount (n : Fin 4) (v : Word) (s : State) : State :=
  s.setEeTimer n { s.eeTimer n with count := v.setWidth 16, pre := 0 }

/-- A write of T_COMP (R542). -/
def writeTComp (n : Fin 4) (v : Word) (s : State) : State :=
  s.setEeTimer n { s.eeTimer n with comp := v.setWidth 16 }

/-- A write of T_HOLD (R542). -/
def writeTHold (n : Fin 4) (v : Word) (s : State) : State :=
  s.setEeTimer n { s.eeTimer n with hold := v.setWidth 16 }

/-! ## IOP timers (R570 to R574) -/

/-- An IOP timer. -/
def State.iopTimer (s : State) (n : Fin 6) : IopTimer := s.iopTimers[n.val]

/-- An IOP timer replaced. -/
def State.setIopTimer (s : State) (n : Fin 6) (t : IopTimer) : State :=
  { s with iopTimers := s.iopTimers.set n.val t n.isLt }

/-- The greatest count of a timer (R573). -/
def iopTimerMax (n : Fin 6) : Word := if n.val ≤ 2 then 0x0000FFFF#32 else 0xFFFFFFFF#32

/-- The IOP INTC source of a timer (R574). -/
def iopTimerSource (n : Fin 6) : Nat := if n.val ≤ 2 then 4 + n.val else 11 + n.val

/-- `IopTimerIrq(n)` (R573). -/
def iopTimerIrq (n : Fin 6) (s : State) : State :=
  let t := s.iopTimer n
  if t.mode.getLsbD 6 || !t.mode.getLsbD 10 then
    (s.setIopTimer n { t with mode := setBit t.mode 10 true }).requestIop (iopTimerSource n)
  else s

/-- A flag of MODE set, then the request its enable bit asks for (R573). -/
def iopTimerFlag (n : Fin 6) (flag enable : Nat) (s : State) : State :=
  let t := s.iopTimer n
  let s := s.setIopTimer n { t with mode := setBit t.mode flag true }
  if t.mode.getLsbD enable then iopTimerIrq n s else s

/-- The count has reached TARGET (R573). -/
def iopTimerTarget (n : Fin 6) (s : State) : State :=
  let s := iopTimerFlag n 11 4 s
  let t := s.iopTimer n
  if t.mode.getLsbD 3 then s.setIopTimer n { t with count := 0 } else s

/-- `IopTimerIncrement(n)` (R573). -/
def iopTimerIncrement (n : Fin 6) (s : State) : State :=
  let t := s.iopTimer n
  let ovf : Bool := t.count = iopTimerMax n
  let count := (t.count + 1) &&& iopTimerMax n
  let s := s.setIopTimer n { t with count := count }
  let s := if count = t.target then iopTimerTarget n s else s
  if ovf then iopTimerFlag n 12 5 s else s

/-- One IOP cycle of the IOP timer block, timers in order (R572). -/
def iopTimersCycle (s : State) : State :=
  iopTimerIncrement 5 (iopTimerIncrement 4 (iopTimerIncrement 3
    (iopTimerIncrement 2 (iopTimerIncrement 1 (iopTimerIncrement 0 s)))))

/-- A write of MODE: sync enable faults; bits 15:13 and 9:0 are stored, the flags and COUNT clear (R571). -/
def writeIopTMode (n : Fin 6) (v : Word) (s : State) : Out :=
  if v.getLsbD 0 then .fault (.timerGate .iop n.val)
  else .next (s.setIopTimer n { s.iopTimer n with mode := v &&& 0x0000E3FF#32, count := 0 })

/-- A write of COUNT (R571). -/
def writeIopTCount (n : Fin 6) (v : Word) (s : State) : State :=
  s.setIopTimer n { s.iopTimer n with count := v &&& iopTimerMax n }

/-- A write of TARGET (R571). -/
def writeIopTTarget (n : Fin 6) (v : Word) (s : State) : State :=
  s.setIopTimer n { s.iopTimer n with target := v &&& iopTimerMax n }

end Sys2Proof.Machine
end

