-- ==== Sys2Proof/Machine/Scheduler.lean ====
section
/-! DEFINITION. The scheduler and the video-timing events (60_exceptions.md sections 18 and 20). -/

namespace Sys2Proof.Machine

/-- Ordered insertion: after every queued event whose deadline is not greater, before the first whose deadline is
(R581). -/
def insertEvent (e : Event) : List Event → List Event
  | [] => [e]
  | f :: q => if f.deadline.toNat ≤ e.deadline.toNat then f :: insertEvent e q else e :: f :: q

/-- `AddWithId(delay, id, kind)`, and `Add(delay, kind)` with no id (R581). -/
def State.addEvent (s : State) (delay : Nat) (id : Option Nat) (kind : EventKind) : State :=
  { s with sched := { s.sched with
      queue := insertEvent { deadline := s.sched.now + BitVec.ofNat 64 delay, id := id, kind := kind } s.sched.queue } }

/-- `Cancel(id)`: every queued event with that id is removed (R582). -/
def State.cancelEvent (s : State) (id : Nat) : State :=
  { s with sched := { s.sched with queue := s.sched.queue.filter (fun e => e.id != some id) } }

/-- `Tick(c)` (R582). -/
def State.tickScheduler (s : State) (c : Nat) : State :=
  { s with sched := { s.sched with now := s.sched.now + BitVec.ofNat 64 c } }

/-- What an event does when it fires (R591, R592). -/
def invokeEvent (kind : EventKind) (s : State) : State :=
  match kind with
  | .vblankStart => ((s.requestEe 2).requestIop 0).addEvent Config.frameCycles none .vblankStart
  | .vblankEnd => ((s.requestEe 3).requestIop 11).addEvent Config.frameCycles none .vblankEnd
  | .hblank => eeTimersHblank (s.addEvent Config.hblankCycles none .hblank)

/-- The event at the head of the queue, where it is due (R582). -/
def State.dueEvent (s : State) : Option Event :=
  match s.sched.queue with
  | [] => none
  | e :: _ => if e.deadline.toNat ≤ s.sched.now.toNat then some e else none

/-- One turn of the loop of `RunEvents()`: the due head is popped, then invoked (R582). -/
def fireEvent (e : Event) (s : State) : State :=
  invokeEvent e.kind { s with sched := { s.sched with queue := s.sched.queue.tail } }

/-- The requests of one quantum's `ext_irq` (R453). -/
def requestAll : List IrqRequest → State → State
  | [], s => s
  | r :: rs, s => requestAll rs (s.requestExternal r)

/-- The start of the scheduler phase: the external requests of this quantum, then `Tick(Q)` (R453, R583). -/
def schedulerPhase (s : State) : State :=
  State.tickScheduler { requestAll (s.extIrq.headD []) s with extIrq := s.extIrq.tail } Config.quantum

end Sys2Proof.Machine
end

