-- ==== Sys2Proof/Machine/Mmio.lean ====
section
/-! DEFINITION. The MMIO dispatcher: the register maps of the in-block devices, their reads and writes, and the
external ranges (20_memory.md section 4; 60_exceptions.md R450, R460, R480, R481, R520, R540, R570). -/

namespace Sys2Proof.Machine

/-- The in-block registers on the EE side. -/
inductive EeReg where
  | tCount (n : Fin 4)
  | tMode (n : Fin 4)
  | tComp (n : Fin 4)
  | tHold (n : Fin 4)
  | chcr (ch : Fin 10)
  | madr (ch : Fin 10)
  | qwc (ch : Fin 10)
  | tadr (ch : Fin 10)
  | asr0 (ch : Fin 10)
  | asr1 (ch : Fin 10)
  | sadr (ch : Fin 10)
  | dCtrl
  | dStat
  | dPcr
  | dSqwc
  | dRbsr
  | dRbor
  | dEnabler
  | dEnablew
  | intcStat
  | intcMask
deriving DecidableEq, Repr

/-- The in-block registers on the IOP side. -/
inductive IopReg where
  | iStat
  | iMask
  | iCtrl
  | madr (ch : Fin 13)
  | bcr (ch : Fin 13)
  | chcr (ch : Fin 13)
  | tadr (ch : Fin 13)
  | dpcr
  | dicr
  | dpcr2
  | dicr2
  | tCount (n : Fin 6)
  | tMode (n : Fin 6)
  | tTarget (n : Fin 6)
deriving DecidableEq, Repr

/-! ## Register maps -/

/-- The register of EE timer `n` at an offset of its block; T_HOLD on timers 0 and 1 only (R540). -/
def eeTimerReg (n : Fin 4) (off : Nat) : Option EeReg :=
  match off with
  | 0x00 => some (.tCount n)
  | 0x10 => some (.tMode n)
  | 0x20 => some (.tComp n)
  | 0x30 => if n.val ≤ 1 then some (.tHold n) else none
  | _ => none

/-- The register of EE channel `ch` at an offset of its block (R480). -/
def eeChannelReg (ch : Fin 10) (off : Nat) : Option EeReg :=
  match off with
  | 0x00 => some (.chcr ch)
  | 0x10 => some (.madr ch)
  | 0x20 => some (.qwc ch)
  | 0x30 => some (.tadr ch)
  | 0x40 => some (.asr0 ch)
  | 0x50 => some (.asr1 ch)
  | 0x80 => some (.sadr ch)
  | _ => none

/-- The EE channel blocks: channel and base address (R480). -/
def eeChannelBlocks : List (Fin 10 × Nat) := [
  (0, 0x10008000), (1, 0x10009000), (2, 0x1000A000), (3, 0x1000B000), (4, 0x1000B400),
  (5, 0x1000C000), (6, 0x1000C400), (7, 0x1000C800), (8, 0x1000D000), (9, 0x1000D400) ]

/-- The EE timer blocks: timer and base address (R540). -/
def eeTimerBlocks : List (Fin 4 × Nat) := [
  (0, 0x10000000), (1, 0x10000800), (2, 0x10001000), (3, 0x10001800) ]

/-- The EE registers that stand alone (R450, R481). -/
def eeSingleRegs : List (EeReg × Nat) := [
  (.dCtrl, 0x1000E000), (.dStat, 0x1000E010), (.dPcr, 0x1000E020), (.dSqwc, 0x1000E030), (.dRbsr, 0x1000E040),
  (.dRbor, 0x1000E050), (.dEnabler, 0x1000F520), (.dEnablew, 0x1000F590), (.intcStat, 0x1000F000),
  (.intcMask, 0x1000F010) ]

/-- The EE register at a physical address, or none (R450, R480, R481, R540). -/
def eeRegAt (pa : Nat) : Option EeReg :=
  (eeTimerBlocks.findSome? fun (n, b) => if b ≤ pa then eeTimerReg n (pa - b) else none) <|>
  (eeChannelBlocks.findSome? fun (ch, b) => if b ≤ pa then eeChannelReg ch (pa - b) else none) <|>
  (eeSingleRegs.findSome? fun (r, a) => if pa = a then some r else none)

/-- The register of IOP channel `ch` at an offset of its block (R520). -/
def iopChannelReg (ch : Fin 13) (off : Nat) : Option IopReg :=
  match off with
  | 0x0 => some (.madr ch)
  | 0x4 => some (.bcr ch)
  | 0x8 => some (.chcr ch)
  | 0xC => some (.tadr ch)
  | _ => none

/-- The register of IOP timer `n` at an offset of its block (R570). -/
def iopTimerReg (n : Fin 6) (off : Nat) : Option IopReg :=
  match off with
  | 0x0 => some (.tCount n)
  | 0x4 => some (.tMode n)
  | 0x8 => some (.tTarget n)
  | _ => none

/-- The IOP channel blocks (R520). -/
def iopChannelBlocks : List (Fin 13 × Nat) := [
  (0, 0x1F801080), (1, 0x1F801090), (2, 0x1F8010A0), (3, 0x1F8010B0), (4, 0x1F8010C0), (5, 0x1F8010D0),
  (6, 0x1F8010E0), (7, 0x1F801500), (8, 0x1F801510), (9, 0x1F801520), (10, 0x1F801530), (11, 0x1F801540),
  (12, 0x1F801550) ]

/-- The IOP timer blocks (R570). -/
def iopTimerBlocks : List (Fin 6 × Nat) := [
  (0, 0x1F801100), (1, 0x1F801110), (2, 0x1F801120), (3, 0x1F801480), (4, 0x1F801490), (5, 0x1F8014A0) ]

/-- The IOP registers that stand alone (R460, R520). -/
def iopSingleRegs : List (IopReg × Nat) := [
  (.iStat, 0x1F801070), (.iMask, 0x1F801074), (.iCtrl, 0x1F801078), (.dpcr, 0x1F8010F0), (.dicr, 0x1F8010F4),
  (.dpcr2, 0x1F801570), (.dicr2, 0x1F801574) ]

/-- The IOP register at a physical address, or none (R460, R520, R570). -/
def iopRegAt (pa : Nat) : Option IopReg :=
  (iopChannelBlocks.findSome? fun (ch, b) => if b ≤ pa then iopChannelReg ch (pa - b) else none) <|>
  (iopTimerBlocks.findSome? fun (n, b) => if b ≤ pa then iopTimerReg n (pa - b) else none) <|>
  (iopSingleRegs.findSome? fun (r, a) => if pa = a then some r else none)

/-! ## Register reads -/

/-- What an EE register reads as; no EE register read has a side effect. -/
def readEeReg (s : State) : EeReg → Word
  | .tCount n => (s.eeTimer n).count.setWidth 32
  | .tMode n => (s.eeTimer n).mode
  | .tComp n => (s.eeTimer n).comp.setWidth 32
  | .tHold n => (s.eeTimer n).hold.setWidth 32
  | .chcr ch => (s.eeChannel ch).chcr
  | .madr ch => (s.eeChannel ch).madr
  | .qwc ch => (s.eeChannel ch).qwc.setWidth 32
  | .tadr ch => (s.eeChannel ch).tadr
  | .asr0 ch => (s.eeChannel ch).asr0
  | .asr1 ch => (s.eeChannel ch).asr1
  | .sadr ch => (s.eeChannel ch).sadr
  | .dCtrl => s.eeDmac.dCtrl
  | .dStat => s.eeDmac.dStat
  | .dPcr => s.eeDmac.dPcr
  | .dSqwc => s.eeDmac.dSqwc
  | .dRbsr => s.eeDmac.dRbsr
  | .dRbor => s.eeDmac.dRbor
  | .dEnabler => s.eeDmac.dEnablew
  | .dEnablew => s.eeDmac.dEnablew
  | .intcStat => s.eeIntc.stat.setWidth 32
  | .intcMask => s.eeIntc.mask.setWidth 32

/-- What an IOP register reads as. -/
def readIopReg (s : State) : IopReg → Word
  | .iStat => s.iopIntc.stat
  | .iMask => s.iopIntc.mask
  | .iCtrl => s.iopIntc.ctrl
  | .madr ch => (s.iopChannel ch).madr
  | .bcr ch => (s.iopChannel ch).bcr
  | .chcr ch => (s.iopChannel ch).chcr
  | .tadr ch => (s.iopChannel ch).tadr
  | .dpcr => s.iopDmac.dpcr
  | .dicr => s.readDicr
  | .dpcr2 => s.iopDmac.dpcr2
  | .dicr2 => s.iopDmac.dicr2
  | .tCount n => (s.iopTimer n).count
  | .tMode n => (s.iopTimer n).mode
  | .tTarget n => (s.iopTimer n).target

/-- The state after an IOP register read: I_CTRL clears itself, no other read has a side effect (R463). -/
def afterReadIopReg (s : State) : IopReg → State
  | .iCtrl => s.writeIopCtrl 0
  | _ => s

/-! ## Register writes -/

/-- The effect of a write of `v` to an EE register. -/
def writeEeReg (r : EeReg) (v : Word) (s : State) : Out :=
  match r with
  | .tCount n => .next (writeTCount n v s)
  | .tMode n => writeTMode n v s
  | .tComp n => .next (writeTComp n v s)
  | .tHold n => .next (writeTHold n v s)
  | .chcr ch => writeEeChcr ch v s
  | .madr ch => .next (s.setEeChannel ch { s.eeChannel ch with madr := v &&& eeAddrMask })
  | .qwc ch => .next (s.setEeChannel ch { s.eeChannel ch with qwc := v.setWidth 16 })
  | .tadr ch => .next (s.setEeChannel ch { s.eeChannel ch with tadr := v &&& eeAddrMask })
  | .asr0 ch => .next (s.setEeChannel ch { s.eeChannel ch with asr0 := v &&& eeAddrMask })
  | .asr1 ch => .next (s.setEeChannel ch { s.eeChannel ch with asr1 := v &&& eeAddrMask })
  | .sadr ch => .next (s.setEeChannel ch { s.eeChannel ch with sadr := v &&& eeSadrMask })
  | .dCtrl => .next { s with eeDmac := { s.eeDmac with dCtrl := v } }
  | .dStat => .next (writeDStat v s)
  | .dPcr => .next { s with eeDmac := { s.eeDmac with dPcr := v } }
  | .dSqwc => .next { s with eeDmac := { s.eeDmac with dSqwc := v } }
  | .dRbsr => .next { s with eeDmac := { s.eeDmac with dRbsr := v } }
  | .dRbor => .next { s with eeDmac := { s.eeDmac with dRbor := v } }
  | .dEnabler => .next s
  | .dEnablew => .next { s with eeDmac := { s.eeDmac with dEnablew := v } }
  | .intcStat => .next (s.writeEeStat v)
  | .intcMask => .next (s.writeEeMask v)

/-- The effect of a write of `v` to an IOP register. -/
def writeIopReg (r : IopReg) (v : Word) (s : State) : Out :=
  match r with
  | .iStat => .next (s.writeIopStat v)
  | .iMask => .next (s.writeIopMask v)
  | .iCtrl => .next (s.writeIopCtrl v)
  | .madr ch => .next (s.setIopChannel ch { s.iopChannel ch with madr := v })
  | .bcr ch => .next (s.setIopChannel ch { s.iopChannel ch with bcr := v })
  | .chcr ch => writeIopChcr ch v s
  | .tadr ch => .next (s.setIopChannel ch { s.iopChannel ch with tadr := v })
  | .dpcr => .next { s with iopDmac := { s.iopDmac with dpcr := v } }
  | .dicr => .next (writeDicr v s)
  | .dpcr2 => .next { s with iopDmac := { s.iopDmac with dpcr2 := v } }
  | .dicr2 => .next (writeDicr2 v s)
  | .tCount n => .next (writeIopTCount n v s)
  | .tMode n => writeIopTMode n v s
  | .tTarget n => .next (writeIopTTarget n v s)

/-! ## The dispatcher (20_memory.md R120, R121) -/

/-- What serves a physical address that no page serves. -/
inductive MmioTarget where
  | eeReg (r : EeReg)
  | iopReg (r : IopReg)
  | external
  | unhandled
deriving DecidableEq, Repr

/-- The handler of an access of `n` bytes at `pa`: in-block devices first, which take 4-byte accesses to a
register's address only, then the external ranges (R120). -/
def mmioTarget (c : Cpu) (pa : Word) (n : Nat) : MmioTarget :=
  if (Config.mmio c).any (fun r => r.holds pa.toNat) then
    if n = 4 then
      match c with
      | .ee => match eeRegAt pa.toNat with
        | some r => .eeReg r
        | none => .unhandled
      | .iop => match iopRegAt pa.toNat with
        | some r => .iopReg r
        | none => .unhandled
    else .unhandled
  else if (Config.externalMmio c).any (fun r => r.holds pa.toNat) then .external
  else .unhandled

/-- `MmioRead(pa, n)` (R120); an external range answers a draw (R123). -/
def mmioRead (c : Cpu) (s : State) (pa : Word) (n : Nat) : Loaded :=
  match mmioTarget c pa n with
  | .eeReg r => .value ((readEeReg s r).setWidth 128) s
  | .iopReg r => .value ((readIopReg s r).setWidth 128) (afterReadIopReg s r)
  | .external => .value (truncBytes n s.nextDraw) s.afterDraw
  | .unhandled => .fault (.unhandledMmio pa n false)

/-- `MmioWrite(pa, n, v)` (R121); an external range records the write (R123). -/
def mmioWrite (c : Cpu) (s : State) (pa : Word) (n : Nat) (v : Quad) : Out :=
  match mmioTarget c pa n with
  | .eeReg r => writeEeReg r (v.setWidth 32) s
  | .iopReg r => writeIopReg r (v.setWidth 32) s
  | .external =>
    .next { s with extWrites := s.extWrites ++ [{ cpu := c, pa := pa, n := n, value := truncBytes n v }] }
  | .unhandled => .fault (.unhandledMmio pa n true)

end Sys2Proof.Machine
end

