-- ==== Sys2Proof/Machine/Ops.lean ====
section
/-! DEFINITION. The named operations over one CPU's registers, control state and memory, taking an exception and
the two returns from one (00_scope.md R17 to R21; 20_memory.md R110, R111; 60_exceptions.md R412, R415;
43_system.md R385, R386). -/

namespace Sys2Proof.Machine

/-! ## The executing CPU -/

/-- The CPU that executes: the one whose turn it is; the EE in a device's or the scheduler's turn, in which no
instruction runs. -/
def State.cpu (s : State) : Cpu :=
  match s.turn with
  | .cpu c => c
  | _ => .ee

/-- The executing CPU's control state. -/
def State.ctl (s : State) : CpuCtl :=
  match s.cpu with
  | .ee => s.ee.ctl
  | .iop => s.iop.ctl

/-- The executing CPU's control state replaced. -/
def State.setCtl (s : State) (c : CpuCtl) : State :=
  { s with
    ee := { s.ee with ctl := match s.cpu with | .ee => c | .iop => s.ee.ctl }
    iop := { s.iop with ctl := match s.cpu with | .ee => s.iop.ctl | .iop => c } }

/-- The executing CPU's pc (10_state.md R47). -/
def State.pc (s : State) : Word := s.ctl.pc

/-- `pc <- v` (00_scope.md R20). -/
def State.setPc (s : State) (v : Word) : State := s.setCtl { s.ctl with pc := v }

/-- The executing CPU's Status replaced. -/
def State.setStatus (s : State) (v : Word) : State := s.setCtl { s.ctl with status := v }

/-! ## General registers (00_scope.md R17, R18; 10_state.md R41, R42) -/

/-- `x[i]` of the EE: register 0 reads zero. -/
def State.eeReg (s : State) (i : Reg) : Quad := if i = 0 then 0 else s.ee.gpr[i.val]

/-- `x[i] <- v` on the EE: a write of register 0 is discarded. -/
def State.setEeReg (s : State) (i : Reg) (v : Quad) : State :=
  { s with ee := { s.ee with gpr := if i = 0 then s.ee.gpr else s.ee.gpr.set i.val v i.isLt } }

/-- `x[i]` of the IOP: register 0 reads zero. -/
def State.iopReg (s : State) (i : Reg) : Word := if i = 0 then 0 else s.iop.gpr[i.val]

/-- `x[i] <- v` on the IOP: a write of register 0 is discarded. -/
def State.setIopReg (s : State) (i : Reg) (v : Word) : State :=
  { s with iop := { s.iop with gpr := if i = 0 then s.iop.gpr else s.iop.gpr.set i.val v i.isLt } }

/-- The sub-view of `n` bytes at byte offset `k` of an EE register (10_state.md R42). -/
def State.eeView (s : State) (i : Reg) (n k : Nat) : BitVec (8 * n) := (s.eeReg i).extractLsb' (8 * k) (8 * n)

/-- A write through a sub-view leaves the other bytes of the register unchanged (10_state.md R42). -/
def State.setEeView (s : State) (i : Reg) (n k : Nat) (v : BitVec (8 * n)) : State :=
  let lanes : Quad := ((BitVec.allOnes (8 * n)).setWidth 128) <<< (8 * k)
  s.setEeReg i ((s.eeReg i &&& ~~~lanes) ||| (((v.setWidth 128) <<< (8 * k)) &&& lanes))

/-- `x[i][63:0]` of the EE. -/
def State.ee64 (s : State) (i : Reg) : Dword := (s.eeReg i).setWidth 64

/-- `x[i][63:0] <- v` on the EE: bits 127:64 are unchanged. -/
def State.setEe64 (s : State) (i : Reg) (v : Dword) : State :=
  s.setEeReg i ((s.eeReg i).extractLsb' 64 64 ++ v)

/-- `x[i][31:0]` of the executing CPU. -/
def State.r32 (s : State) (i : Reg) : Word :=
  match s.cpu with
  | .ee => (s.eeReg i).setWidth 32
  | .iop => s.iopReg i

/-- `w32s(i, v)`: a 32-bit value, sign-extended into bits 63:0 on the EE (R18). -/
def State.w32s (s : State) (i : Reg) (v : Word) : State :=
  match s.cpu with
  | .ee => s.setEe64 i (v.signExtend 64)
  | .iop => s.setIopReg i v

/-- `wW(i, sext_W(v))` (R18). -/
def State.wSext {n : Nat} (s : State) (i : Reg) (v : BitVec n) : State :=
  match s.cpu with
  | .ee => s.setEe64 i (v.signExtend 64)
  | .iop => s.setIopReg i (v.signExtend 32)

/-- `wW(i, zext_W(v))` (R18). -/
def State.wZext {n : Nat} (s : State) (i : Reg) (v : BitVec n) : State :=
  match s.cpu with
  | .ee => s.setEe64 i (v.setWidth 64)
  | .iop => s.setIopReg i (v.setWidth 32)

/-- `wW(i, f(rW(a)))`: a W-bit operation of one register, at the executing CPU's width (R18). -/
def State.wOp1 (s : State) (f : (w : Nat) → BitVec w → BitVec w) (i a : Reg) : State :=
  match s.cpu with
  | .ee => s.setEe64 i (f 64 (s.ee64 a))
  | .iop => s.setIopReg i (f 32 (s.iopReg a))

/-- `wW(i, f(rW(a), rW(b)))`: a W-bit operation of two registers, at the executing CPU's width (R18). -/
def State.wOp2 (s : State) (f : (w : Nat) → BitVec w → BitVec w → BitVec w) (i a b : Reg) : State :=
  match s.cpu with
  | .ee => s.setEe64 i (f 64 (s.ee64 a) (s.ee64 b))
  | .iop => s.setIopReg i (f 32 (s.iopReg a) (s.iopReg b))

/-- A test of `rW(a)` at the executing CPU's width (R18). -/
def State.test1 (s : State) (p : (w : Nat) → BitVec w → Bool) (a : Reg) : Bool :=
  match s.cpu with
  | .ee => p 64 (s.ee64 a)
  | .iop => p 32 (s.iopReg a)

/-- A test of `rW(a)` and `rW(b)` at the executing CPU's width (R18). -/
def State.test2 (s : State) (p : (w : Nat) → BitVec w → BitVec w → Bool) (a b : Reg) : Bool :=
  match s.cpu with
  | .ee => p 64 (s.ee64 a) (s.ee64 b)
  | .iop => p 32 (s.iopReg a) (s.iopReg b)

/-! ## HI and LO (10_state.md R45) -/

/-- `HI[63:0] <- v` on the EE: bits 127:64 are unchanged. -/
def State.setEeHi (s : State) (v : Dword) : State :=
  { s with ee := { s.ee with hi := s.ee.hi.extractLsb' 64 64 ++ v } }

/-- `LO[63:0] <- v` on the EE: bits 127:64 are unchanged. -/
def State.setEeLo (s : State) (v : Dword) : State :=
  { s with ee := { s.ee with lo := s.ee.lo.extractLsb' 64 64 ++ v } }

/-- `HI <- v` on the IOP. -/
def State.setIopHi (s : State) (v : Word) : State := { s with iop := { s.iop with hi := v } }

/-- `LO <- v` on the IOP. -/
def State.setIopLo (s : State) (v : Word) : State := { s with iop := { s.iop with lo := v } }

/-- `HI[W-1:0] <- sext_W(h)` and `LO[W-1:0] <- sext_W(l)` for 32-bit values (41_integer.md R263, R264). -/
def State.setHiLo (s : State) (h l : Word) : State :=
  match s.cpu with
  | .ee => (s.setEeHi (h.signExtend 64)).setEeLo (l.signExtend 64)
  | .iop => (s.setIopHi h).setIopLo l

/-! ## Branch requests (40_control_flow.md R206) -/

/-- `Branch(t)`: the target is recorded and the request is pending; pc is not written. -/
def State.requestBranch (s : State) (t : Word) : State :=
  s.setCtl { s.ctl with branchTarget := t, branchPending := true }

/-! ## Memory primitives (20_memory.md R110, R111) -/

/-- The access sizes that are alignment-checked. -/
def misalignedFor (n : Nat) (va : Word) : Bool := (n == 2 || n == 4 || n == 8) && va.toNat % n != 0

/-- `MemRead(va, n)` by the executing CPU. -/
def memRead (s : State) (va : Word) (n : Nat) : Loaded :=
  if misalignedFor n va then .fault (.misaligned va n)
  else
    match pageEntry s.cpu (translate s.cpu va) with
    | some r => .value (s.mem.readLE (regionKey r (translate s.cpu va)) n) s
    | none => mmioRead s.cpu s (translate s.cpu va) n

/-- IOP stores are discarded while Status.IsC = 1 (R111, 10_state.md R58). -/
def State.storesDiscarded (s : State) : Bool :=
  s.cpu == .iop && s.iop.ctl.status.getLsbD 16 && Config.iopIscDiscardsStores

/-- A store to the page of a region: a ROM page faults or ignores it (R111, D6). -/
def storeToPage (mode : RomWrite) (s : State) (r : Region) (pa : Word) (n : Nat) (v : Quad) : Out :=
  if r.writable then .next { s with mem := s.mem.writeLE (regionKey r pa) n v }
  else
    match mode with
    | .fault => .fault (.romWrite pa)
    | .ignore => .next s

/-- `MemWrite(va, n, v)` by the executing CPU. -/
def memWrite (s : State) (va : Word) (n : Nat) (v : Quad) : Out :=
  if s.storesDiscarded then .next s
  else if misalignedFor n va then .fault (.misaligned va n)
  else
    match pageEntry s.cpu (translate s.cpu va) with
    | some r => storeToPage Config.romWrite s r (translate s.cpu va) n v
    | none => mmioWrite s.cpu s (translate s.cpu va) n v

/-! ## Cause with the live lines (10_state.md R55, R59) -/

/-- `CauseLive`: the stored bits of Cause with the interrupt lines inserted. -/
def State.causeLive (s : State) : Word :=
  match s.cpu with
  | .ee => setBit (setBit s.ee.ctl.cause 10 s.eeInt0) 11 s.eeInt1
  | .iop => setBit s.iop.ctl.cause 10 s.iopLine

/-! ## Exceptions (60_exceptions.md R401, R411, R412, R415) -/

/-- The exceptions the block raises (R401). -/
inductive Exc where
  | interrupt
  | syscall
  | breakpoint
  | overflow
deriving DecidableEq, Repr

/-- The code written into Cause.ExcCode (R401). -/
def excCode : Exc → BitVec 5
  | .interrupt => 0
  | .syscall => 8
  | .breakpoint => 9
  | .overflow => 12

/-- `Vector(cpu, code)`, by Status.BEV, bit 22 (R415). -/
def excVector (c : Cpu) (status : Word) (e : Exc) : Word :=
  match c, status.getLsbD 22, e with
  | .ee, false, .interrupt => Config.eeVecInterrupt
  | .ee, true, .interrupt => Config.eeVecInterruptBev
  | .ee, false, _ => Config.eeVecCommon
  | .ee, true, _ => Config.eeVecCommonBev
  | .iop, false, _ => Config.iopVec
  | .iop, true, _ => Config.iopVecBev

/-- Status at entry: EXL set on the EE; the KU/IE stack pushed on the IOP (R412). -/
def statusAtEntry (c : Cpu) (status : Word) : Word :=
  match c with
  | .ee => setBit status 1 true
  | .iop => mergeBits 0x0000003F#32 status ((status &&& 0x0000000F#32) <<< 2)

/-- Cause at entry: BD says whether the entry abandons a delay slot, ExcCode is the exception's code (R412). -/
def causeAtEntry (cause : Word) (inDelaySlot : Bool) (e : Exc) : Word :=
  mergeBits 0x0000007C#32 (setBit cause 31 inDelaySlot) (((excCode e).setWidth 32) <<< 2)

/-- Where an entry is made: in step 4 of a step, before the +4 of step 5, or at the boundary after it (R411). -/
inductive EntryPoint where
  | sync
  | boundary
deriving DecidableEq, Repr

/-- `DoException(code, point)` (R412, R413): EPC is pc, or pc - 4 where a delay slot is abandoned; the in-flight
branch is discarded; pc is the vector, less 4 where a +4 follows. -/
def doException (e : Exc) (point : EntryPoint) (s : State) : State :=
  let c := s.ctl
  let v := excVector s.cpu c.status e
  s.setCtl
    { pc := match point with
        | .sync => v - 4
        | .boundary => v
      branchPending := false
      inDelaySlot := false
      branchTarget := c.branchTarget
      status := statusAtEntry s.cpu c.status
      cause := causeAtEntry c.cause c.inDelaySlot e
      epc := if c.inDelaySlot then c.pc - 4 else c.pc }

/-- `raise E` in step 4 (00_scope.md R21). -/
def raise (e : Exc) (s : State) : Out := .next (doException e .sync s)

/-! ## Returns (43_system.md R385, R386) -/

/-- The pop of the EE Status on ERET (R385, D11). -/
def eretPop (mode : EretPop) (status : Word) : Word :=
  match mode with
  | .low6 => mergeBits 0x0000003F#32 status ((status >>> 2) &&& 0x0000000F#32)
  | .bits72 => mergeBits 0x0000003F#32 status (status >>> 2)
  | .none => status

/-- The effect of ERET on the EE outside a delay slot (R385). -/
def returnFromException (mode : EretPop) (s : State) : State :=
  let c := s.ee.ctl
  let erl := c.status.getLsbD 2
  let target := if erl then s.ee.errorEpc else c.epc
  let cleared := if erl then setBit c.status 2 false else setBit c.status 1 false
  { s with ee := { s.ee with ctl := { c with status := eretPop mode cleared, pc := target - 4 } } }

/-- The pop of the IOP Status on RFE: bits 3:0 take bits 5:2, bits 5:4 are unchanged (R386). -/
def rfePop (status : Word) : Word := mergeBits 0x0000000F#32 status (status >>> 2)

/-- The effect of RFE on the IOP (R386). -/
def restoreFromException (setsPc : Bool) (s : State) : State :=
  let c := s.iop.ctl
  { s with iop := { s.iop with ctl :=
      { c with status := rfePop c.status, pc := if setsPc then c.epc - 4 else c.pc } } }

/-! ## Instructions of one CPU's tables only (30_encoding.md R185, R186) -/

/-- An instruction whose entry is empty in the IOP's tables: illegal there (R185). -/
def eeOnly (i : Instr) (s : State) (o : Out) : Out :=
  match s.cpu with
  | .ee => o
  | .iop => .fault (.illegalInstruction (encode i) s.pc)

/-- An instruction of one CPU that the other's tables refuse (R186, R191). -/
def onlyOn (c : Cpu) (i : Instr) (s : State) (o : Out) : Out :=
  if s.cpu = c then o else .refused (.notAdmitted (encode i) s.pc)

end Sys2Proof.Machine
end

