-- ==== Sys2Proof/Machine/Operands.lean ====
section
/-! DEFINITION. The operand forms: immediates, branch and jump targets, shift amounts and effective addresses
(30_encoding.md section 2; 42_load_store.md R350). -/

namespace Sys2Proof.Machine

/-- `sext_32(imm)` (30_encoding.md R170). -/
def simm32 (imm : BitVec 16) : Word := imm.signExtend 32

/-- `imm ++ 0x0000`, the operand of LUI (30_encoding.md R172). -/
def upperImm (imm : BitVec 16) : Word := imm ++ 0x0000#16

/-- The target of a conditional branch at `pc` (30_encoding.md R173). -/
def branchTargetOf (pc : Word) (imm : BitVec 16) : Word := (pc + 4) + (simm32 imm <<< 2)

/-- The target of J and JAL at `pc` (30_encoding.md R174). -/
def jumpTargetOf (pc : Word) (target : BitVec 26) : Word := (pc + 4).extractLsb' 28 4 ++ target ++ 0b00#2

/-- The link value of a branch or jump at `pc` (40_control_flow.md R211). -/
def linkOf (pc : Word) : Word := pc + 8

/-- The amount of SLLV, SRLV and SRAV: `x[rs][4:0]` (30_encoding.md R175). -/
def State.shiftAmount5 (s : State) (rs : Reg) : Nat := ((s.r32 rs).extractLsb' 0 5).toNat

/-- The amount of DSLLV, DSRLV and DSRAV: `x[rs][5:0]` (30_encoding.md R175). -/
def State.shiftAmount6 (s : State) (rs : Reg) : Nat := ((s.ee64 rs).extractLsb' 0 6).toNat

/-- `trunc_32(rW(base) + sext_W(offset))` (42_load_store.md R350). -/
def State.effAddr (s : State) (base : Reg) (offset : BitVec 16) : Word :=
  match s.cpu with
  | .ee => (s.ee64 base + offset.signExtend 64).setWidth 32
  | .iop => s.iopReg base + offset.signExtend 32

/-- The address of LQ and SQ: bits 3:0 cleared (42_load_store.md R350). -/
def State.quadAddr (s : State) (base : Reg) (offset : BitVec 16) : Word :=
  s.effAddr base offset &&& 0xFFFFFFF0#32

/-- The low `n` bytes of rt, as a store takes them (42_load_store.md R353). -/
def State.storeData (s : State) (rt : Reg) (n : Nat) : Quad :=
  match s.cpu with
  | .ee => truncBytes n (s.eeReg rt)
  | .iop => truncBytes n ((s.iopReg rt).setWidth 128)

end Sys2Proof.Machine
end

