-- ==== Sys2Proof/Machine/Flags.lean ====
section
/-! DEFINITION. The hardware has no flag register (10_state.md R46). What other machines hold in flags stands
here: the overflow test, the results of comparisons, the branch conditions, and the pending-interrupt fields. -/

namespace Sys2Proof.Machine

/-- The exact sum or difference lies outside the signed 32-bit range (41_integer.md R262). -/
def overflows32 (exact : Int) : Bool := exact < -(2 ^ 31) || 2 ^ 31 - 1 < exact

/-- The result of ADD, SUB and ADDI: the exception where the exact result overflows and traps are on, else the
wrapped result (41_integer.md R262). -/
def writeOrOverflow (trap : Bool) (rd : Reg) (exact : Int) (s : State) : Out :=
  if overflows32 exact && trap then raise .overflow s
  else .next (s.w32s rd (BitVec.ofInt 32 exact))

/-- 1 where the signed comparison holds, else 0 (41_integer.md R278). -/
def setLess (w : Nat) (a b : BitVec w) : BitVec w := if a.toInt < b.toInt then 1#w else 0#w

/-- 1 where the unsigned comparison holds, else 0 (41_integer.md R279). -/
def setLessU (w : Nat) (a b : BitVec w) : BitVec w := if a.toNat < b.toNat then 1#w else 0#w

/-- `rW(rs) = rW(rt)` (40_control_flow.md R220). -/
def condEq (w : Nat) (a b : BitVec w) : Bool := a = b
/-- `rW(rs) != rW(rt)` (40_control_flow.md R221). -/
def condNe (w : Nat) (a b : BitVec w) : Bool := a ≠ b
/-- `signed(rW(rs)) <= 0` (40_control_flow.md R222). -/
def condLez (w : Nat) (a : BitVec w) : Bool := a.toInt ≤ 0
/-- `signed(rW(rs)) > 0` (40_control_flow.md R223). -/
def condGtz (w : Nat) (a : BitVec w) : Bool := 0 < a.toInt
/-- `signed(rW(rs)) < 0` (40_control_flow.md R224). -/
def condLtz (w : Nat) (a : BitVec w) : Bool := a.toInt < 0
/-- `signed(rW(rs)) >= 0` (40_control_flow.md R225). -/
def condGez (w : Nat) (a : BitVec w) : Bool := 0 ≤ a.toInt

/-- The interrupt is taken (60_exceptions.md R420): enabled, and an enabled source is pending in Cause with its live
lines. -/
def State.interruptTaken (s : State) : Bool :=
  match s.cpu with
  | .ee =>
    let st := s.ee.ctl.status
    st.getLsbD 0 && !st.getLsbD 1 && st.getLsbD 16
      && (s.causeLive.extractLsb' 8 8 &&& st.extractLsb' 8 8 != 0)
  | .iop =>
    let st := s.iop.ctl.status
    st.getLsbD 0 && (s.causeLive.extractLsb' 8 3 &&& st.extractLsb' 8 3 != 0)

end Sys2Proof.Machine
end

