-- ==== Sys2Proof/Machine/Arith.lean ====
section
/-! DEFINITION. Register and immediate arithmetic and logic (41_integer.md sections 2 and 3). Every source is read
before the destination is written (R260). -/

namespace Sys2Proof.Machine

/-! ## Register forms -/

/-- ADD (R270). -/
def execAdd (rd rs rt : Reg) (s : State) : Out :=
  writeOrOverflow Config.trapOnOverflow rd ((s.r32 rs).toInt + (s.r32 rt).toInt) s
/-- ADDU (R271). -/
def execAddu (rd rs rt : Reg) (s : State) : Out := .next (s.w32s rd (s.r32 rs + s.r32 rt))
/-- SUB (R272). -/
def execSub (rd rs rt : Reg) (s : State) : Out :=
  writeOrOverflow Config.trapOnOverflow rd ((s.r32 rs).toInt - (s.r32 rt).toInt) s
/-- SUBU (R273). -/
def execSubu (rd rs rt : Reg) (s : State) : Out := .next (s.w32s rd (s.r32 rs - s.r32 rt))
/-- AND (R274). -/
def execAnd (rd rs rt : Reg) (s : State) : Out := .next (s.wOp2 (fun _ a b => a &&& b) rd rs rt)
/-- OR (R275). -/
def execOr (rd rs rt : Reg) (s : State) : Out := .next (s.wOp2 (fun _ a b => a ||| b) rd rs rt)
/-- XOR (R276). -/
def execXor (rd rs rt : Reg) (s : State) : Out := .next (s.wOp2 (fun _ a b => a ^^^ b) rd rs rt)
/-- NOR (R277). -/
def execNor (rd rs rt : Reg) (s : State) : Out := .next (s.wOp2 (fun _ a b => ~~~(a ||| b)) rd rs rt)
/-- SLT (R278). -/
def execSlt (rd rs rt : Reg) (s : State) : Out := .next (s.wOp2 setLess rd rs rt)
/-- SLTU (R279). -/
def execSltu (rd rs rt : Reg) (s : State) : Out := .next (s.wOp2 setLessU rd rs rt)

/-! ## Immediate forms -/

/-- ADDI (R280). -/
def execAddi (rt rs : Reg) (imm : BitVec 16) (s : State) : Out :=
  writeOrOverflow Config.trapOnOverflow rt ((s.r32 rs).toInt + (simm32 imm).toInt) s
/-- ADDIU (R281). -/
def execAddiu (rt rs : Reg) (imm : BitVec 16) (s : State) : Out := .next (s.w32s rt (s.r32 rs + simm32 imm))
/-- SLTI (R282). -/
def execSlti (rt rs : Reg) (imm : BitVec 16) (s : State) : Out :=
  .next (s.wOp1 (fun w a => setLess w a (imm.signExtend w)) rt rs)
/-- SLTIU (R283): the immediate is sign-extended, then compared unsigned. -/
def execSltiu (rt rs : Reg) (imm : BitVec 16) (s : State) : Out :=
  .next (s.wOp1 (fun w a => setLessU w a (imm.signExtend w)) rt rs)
/-- ANDI (R284). -/
def execAndi (rt rs : Reg) (imm : BitVec 16) (s : State) : Out :=
  .next (s.wOp1 (fun w a => a &&& imm.setWidth w) rt rs)
/-- ORI (R285). -/
def execOri (rt rs : Reg) (imm : BitVec 16) (s : State) : Out :=
  .next (s.wOp1 (fun w a => a ||| imm.setWidth w) rt rs)
/-- XORI (R286). -/
def execXori (rt rs : Reg) (imm : BitVec 16) (s : State) : Out :=
  .next (s.wOp1 (fun w a => a ^^^ imm.setWidth w) rt rs)
/-- LUI (R287). -/
def execLui (rt : Reg) (imm : BitVec 16) (s : State) : Out := .next (s.w32s rt (upperImm imm))

end Sys2Proof.Machine
end

