-- ==== Sys2Proof/Machine/Branch.lean ====
section
/-! DEFINITION. Branches and jumps (40_control_flow.md sections 3 to 5). -/

namespace Sys2Proof.Machine

/-! ## The shared shapes -/

/-- The check of R207: a branch or jump in a delay slot faults before any other effect. -/
def outsideSlot (s : State) (o : Out) : Out :=
  if s.ctl.inDelaySlot then .fault (.branchInDelaySlot s.pc) else o

/-- A request where the condition holds, nothing where it does not (R206, R208). -/
def branchWhen (taken : Bool) (target : Word) (s : State) : State :=
  if taken then s.requestBranch target else s

/-- A request where the condition holds; where it does not, the delay slot is skipped (R209). -/
def branchWhenLikely (taken : Bool) (target : Word) (s : State) : State :=
  if taken then s.requestBranch target else s.setPc (s.pc + 4)

/-- The link written into a register (R211). -/
def State.link (s : State) (rd : Reg) : State := s.w32s rd (linkOf s.pc)

/-- A conditional branch. -/
def condBranch (taken : Bool) (imm : BitVec 16) (s : State) : Out :=
  outsideSlot s (.next (branchWhen taken (branchTargetOf s.pc imm) s))

/-- A likely branch. -/
def likelyBranch (taken : Bool) (imm : BitVec 16) (s : State) : Out :=
  outsideSlot s (.next (branchWhenLikely taken (branchTargetOf s.pc imm) s))

/-- A linking branch: the link is written whether or not it is taken. -/
def linkBranch (taken : Bool) (imm : BitVec 16) (s : State) : Out :=
  outsideSlot s (.next (branchWhen taken (branchTargetOf s.pc imm) (s.link 31)))

/-- A linking likely branch. -/
def linkLikelyBranch (taken : Bool) (imm : BitVec 16) (s : State) : Out :=
  outsideSlot s (.next (branchWhenLikely taken (branchTargetOf s.pc imm) (s.link 31)))

/-! ## Conditional branches -/

/-- BEQ (R220). -/
def execBeq (rs rt : Reg) (imm : BitVec 16) (s : State) : Out := condBranch (s.test2 condEq rs rt) imm s
/-- BNE (R221). -/
def execBne (rs rt : Reg) (imm : BitVec 16) (s : State) : Out := condBranch (s.test2 condNe rs rt) imm s
/-- BLEZ (R222). -/
def execBlez (rs : Reg) (imm : BitVec 16) (s : State) : Out := condBranch (s.test1 condLez rs) imm s
/-- BGTZ (R223). -/
def execBgtz (rs : Reg) (imm : BitVec 16) (s : State) : Out := condBranch (s.test1 condGtz rs) imm s
/-- BLTZ (R224). -/
def execBltz (rs : Reg) (imm : BitVec 16) (s : State) : Out := condBranch (s.test1 condLtz rs) imm s
/-- BGEZ (R225). -/
def execBgez (rs : Reg) (imm : BitVec 16) (s : State) : Out := condBranch (s.test1 condGez rs) imm s

/-! ## Likely branches (EE only) -/

/-- BEQL (R226). -/
def execBeql (rs rt : Reg) (imm : BitVec 16) (s : State) : Out :=
  eeOnly (.beql rs rt imm) s (likelyBranch (s.test2 condEq rs rt) imm s)
/-- BNEL (R227). -/
def execBnel (rs rt : Reg) (imm : BitVec 16) (s : State) : Out :=
  eeOnly (.bnel rs rt imm) s (likelyBranch (s.test2 condNe rs rt) imm s)
/-- BLEZL (R228). -/
def execBlezl (rs : Reg) (imm : BitVec 16) (s : State) : Out :=
  eeOnly (.blezl rs imm) s (likelyBranch (s.test1 condLez rs) imm s)
/-- BGTZL (R229). -/
def execBgtzl (rs : Reg) (imm : BitVec 16) (s : State) : Out :=
  eeOnly (.bgtzl rs imm) s (likelyBranch (s.test1 condGtz rs) imm s)
/-- BLTZL (R230). -/
def execBltzl (rs : Reg) (imm : BitVec 16) (s : State) : Out :=
  eeOnly (.bltzl rs imm) s (likelyBranch (s.test1 condLtz rs) imm s)
/-- BGEZL (R231). -/
def execBgezl (rs : Reg) (imm : BitVec 16) (s : State) : Out :=
  eeOnly (.bgezl rs imm) s (likelyBranch (s.test1 condGez rs) imm s)

/-! ## Linking branches; the condition is read before the link is written -/

/-- BLTZAL (R232). -/
def execBltzal (rs : Reg) (imm : BitVec 16) (s : State) : Out := linkBranch (s.test1 condLtz rs) imm s
/-- BGEZAL (R233). -/
def execBgezal (rs : Reg) (imm : BitVec 16) (s : State) : Out := linkBranch (s.test1 condGez rs) imm s
/-- BLTZALL (R234). -/
def execBltzall (rs : Reg) (imm : BitVec 16) (s : State) : Out :=
  eeOnly (.bltzall rs imm) s (linkLikelyBranch (s.test1 condLtz rs) imm s)
/-- BGEZALL (R235). -/
def execBgezall (rs : Reg) (imm : BitVec 16) (s : State) : Out :=
  eeOnly (.bgezall rs imm) s (linkLikelyBranch (s.test1 condGez rs) imm s)

/-! ## Jumps -/

/-- J (R236). -/
def execJ (target : BitVec 26) (s : State) : Out :=
  outsideSlot s (.next (s.requestBranch (jumpTargetOf s.pc target)))
/-- JAL (R237). -/
def execJal (target : BitVec 26) (s : State) : Out :=
  outsideSlot s (.next ((s.link 31).requestBranch (jumpTargetOf s.pc target)))
/-- JR (R238). -/
def execJr (rs : Reg) (s : State) : Out :=
  outsideSlot s (.next (s.requestBranch (s.r32 rs)))
/-- JALR (R239): the target is read before the link is written. -/
def execJalr (rd rs : Reg) (s : State) : Out :=
  outsideSlot s (.next ((s.link rd).requestBranch (s.r32 rs)))

end Sys2Proof.Machine
end

