-- ==== Sys2Proof/Machine/Doubleword.lean ====
section
/-! DEFINITION. The EE's doubleword arithmetic and shifts and its conditional moves (41_integer.md section 6). -/

namespace Sys2Proof.Machine

/-- A 64-bit result written to an EE register: the shape of this section's instructions. -/
def ee64Result (i : Instr) (rd : Reg) (v : Dword) (s : State) : Out := eeOnly i s (.next (s.setEe64 rd v))

/-- DADDU (R310). -/
def execDaddu (rd rs rt : Reg) (s : State) : Out := ee64Result (.daddu rd rs rt) rd (s.ee64 rs + s.ee64 rt) s
/-- DSUBU (R311). -/
def execDsubu (rd rs rt : Reg) (s : State) : Out := ee64Result (.dsubu rd rs rt) rd (s.ee64 rs - s.ee64 rt) s
/-- DADDIU (R312). -/
def execDaddiu (rt rs : Reg) (imm : BitVec 16) (s : State) : Out :=
  ee64Result (.daddiu rt rs imm) rt (s.ee64 rs + imm.signExtend 64) s

/-- DSLL (R313). -/
def execDsll (rd rt : Reg) (sa : BitVec 5) (s : State) : Out :=
  ee64Result (.dsll rd rt sa) rd (s.ee64 rt <<< sa.toNat) s
/-- DSRL (R314). -/
def execDsrl (rd rt : Reg) (sa : BitVec 5) (s : State) : Out :=
  ee64Result (.dsrl rd rt sa) rd (s.ee64 rt >>> sa.toNat) s
/-- DSRA (R315). -/
def execDsra (rd rt : Reg) (sa : BitVec 5) (s : State) : Out :=
  ee64Result (.dsra rd rt sa) rd ((s.ee64 rt).sshiftRight sa.toNat) s
/-- DSLL32 (R316). -/
def execDsll32 (rd rt : Reg) (sa : BitVec 5) (s : State) : Out :=
  ee64Result (.dsll32 rd rt sa) rd (s.ee64 rt <<< (sa.toNat + 32)) s
/-- DSRL32 (R317). -/
def execDsrl32 (rd rt : Reg) (sa : BitVec 5) (s : State) : Out :=
  ee64Result (.dsrl32 rd rt sa) rd (s.ee64 rt >>> (sa.toNat + 32)) s
/-- DSRA32 (R318). -/
def execDsra32 (rd rt : Reg) (sa : BitVec 5) (s : State) : Out :=
  ee64Result (.dsra32 rd rt sa) rd ((s.ee64 rt).sshiftRight (sa.toNat + 32)) s
/-- DSLLV (R319). -/
def execDsllv (rd rt rs : Reg) (s : State) : Out :=
  ee64Result (.dsllv rd rt rs) rd (s.ee64 rt <<< s.shiftAmount6 rs) s
/-- DSRLV (R320). -/
def execDsrlv (rd rt rs : Reg) (s : State) : Out :=
  ee64Result (.dsrlv rd rt rs) rd (s.ee64 rt >>> s.shiftAmount6 rs) s
/-- DSRAV (R321). -/
def execDsrav (rd rt rs : Reg) (s : State) : Out :=
  ee64Result (.dsrav rd rt rs) rd ((s.ee64 rt).sshiftRight (s.shiftAmount6 rs)) s

/-- MOVZ (R322). -/
def execMovz (rd rs rt : Reg) (s : State) : Out :=
  eeOnly (.movz rd rs rt) s (.next (if s.ee64 rt = 0 then s.setEe64 rd (s.ee64 rs) else s))
/-- MOVN (R323). -/
def execMovn (rd rs rt : Reg) (s : State) : Out :=
  eeOnly (.movn rd rs rt) s (.next (if s.ee64 rt = 0 then s else s.setEe64 rd (s.ee64 rs)))

end Sys2Proof.Machine
end

