-- ==== Sys2Proof/Machine/LoadStore.lean ====
section
/-! DEFINITION. Loads, stores, SYNC and CACHE (42_load_store.md). The address is computed before rt is written
(R351); a load into r0 still reads (R351). -/

namespace Sys2Proof.Machine

/-! ## Loads -/

/-- LB (R354). -/
def execLb (rt base : Reg) (offset : BitVec 16) (s : State) : Out :=
  useLoaded (memRead s (s.effAddr base offset) 1) fun v t => .next (t.wSext rt (v.setWidth 8))
/-- LBU (R355). -/
def execLbu (rt base : Reg) (offset : BitVec 16) (s : State) : Out :=
  useLoaded (memRead s (s.effAddr base offset) 1) fun v t => .next (t.wZext rt (v.setWidth 8))
/-- LH (R356). -/
def execLh (rt base : Reg) (offset : BitVec 16) (s : State) : Out :=
  useLoaded (memRead s (s.effAddr base offset) 2) fun v t => .next (t.wSext rt (v.setWidth 16))
/-- LHU (R357). -/
def execLhu (rt base : Reg) (offset : BitVec 16) (s : State) : Out :=
  useLoaded (memRead s (s.effAddr base offset) 2) fun v t => .next (t.wZext rt (v.setWidth 16))
/-- LW (R358). -/
def execLw (rt base : Reg) (offset : BitVec 16) (s : State) : Out :=
  useLoaded (memRead s (s.effAddr base offset) 4) fun v t => .next (t.w32s rt (v.setWidth 32))
/-- LWU (R359). -/
def execLwu (rt base : Reg) (offset : BitVec 16) (s : State) : Out :=
  eeOnly (.lwu rt base offset) s
    (useLoaded (memRead s (s.effAddr base offset) 4) fun v t => .next (t.wZext rt (v.setWidth 32)))
/-- LQ (R360). -/
def execLq (rt base : Reg) (offset : BitVec 16) (s : State) : Out :=
  eeOnly (.lq rt base offset) s
    (useLoaded (memRead s (s.quadAddr base offset) 16) fun v t => .next (t.setEeReg rt v))
/-- LD (R361). -/
def execLd (rt base : Reg) (offset : BitVec 16) (s : State) : Out :=
  eeOnly (.ld rt base offset) s
    (useLoaded (memRead s (s.effAddr base offset) 8) fun v t => .next (t.setEe64 rt (v.setWidth 64)))

/-! ## Stores -/

/-- SB (R362). -/
def execSb (rt base : Reg) (offset : BitVec 16) (s : State) : Out :=
  memWrite s (s.effAddr base offset) 1 (s.storeData rt 1)
/-- SH (R363). -/
def execSh (rt base : Reg) (offset : BitVec 16) (s : State) : Out :=
  memWrite s (s.effAddr base offset) 2 (s.storeData rt 2)
/-- SW (R364). -/
def execSw (rt base : Reg) (offset : BitVec 16) (s : State) : Out :=
  memWrite s (s.effAddr base offset) 4 (s.storeData rt 4)
/-- SQ (R365). -/
def execSq (rt base : Reg) (offset : BitVec 16) (s : State) : Out :=
  eeOnly (.sq rt base offset) s (memWrite s (s.quadAddr base offset) 16 (s.storeData rt 16))
/-- SD (R366). -/
def execSd (rt base : Reg) (offset : BitVec 16) (s : State) : Out :=
  eeOnly (.sd rt base offset) s (memWrite s (s.effAddr base offset) 8 (s.storeData rt 8))

/-! ## SYNC and CACHE: no effect (R370, R371) -/

/-- SYNC (R370): the block's order is sequential, so every form is a no-op. -/
def execSync (stype : BitVec 5) (s : State) : Out := eeOnly (.sync stype) s (.next s)
/-- CACHE (R371): no address is computed and no access made. -/
def execCache (op : BitVec 5) (base : Reg) (offset : BitVec 16) (s : State) : Out :=
  eeOnly (.cache op base offset) s (.next s)

end Sys2Proof.Machine
end

