-- ==== Sys2Proof/Machine/Mmi.lean ====
section
/-! DEFINITION. The EE's multimedia subset: whole 128-bit registers, lanes independent (41_integer.md section 7). -/

namespace Sys2Proof.Machine

/-- Word lane `i` of a quadword (R330). -/
def wordLane (v : Quad) (i : Nat) : Word := v.extractLsb' (32 * i) 32

/-- Doubleword lane `j` of a quadword (R330). -/
def dwordLane (v : Quad) (j : Nat) : Dword := v.extractLsb' (64 * j) 64

/-- A word operation on each of the four lanes. -/
def mapLanes (f : Word → Word → Word) (a b : Quad) : Quad :=
  f (wordLane a 3) (wordLane b 3) ++ f (wordLane a 2) (wordLane b 2)
    ++ f (wordLane a 1) (wordLane b 1) ++ f (wordLane a 0) (wordLane b 0)

/-- A 128-bit result written to a whole EE register: the shape of this section's instructions. -/
def ee128Result (i : Instr) (rd : Reg) (v : Quad) (s : State) : Out := eeOnly i s (.next (s.setEeReg rd v))

/-- PADDW (R331). -/
def execPaddw (rd rs rt : Reg) (s : State) : Out :=
  ee128Result (.paddw rd rs rt) rd (mapLanes (fun a b => a + b) (s.eeReg rs) (s.eeReg rt)) s
/-- PSUBW (R332). -/
def execPsubw (rd rs rt : Reg) (s : State) : Out :=
  ee128Result (.psubw rd rs rt) rd (mapLanes (fun a b => a - b) (s.eeReg rs) (s.eeReg rt)) s
/-- PAND (R333). -/
def execPand (rd rs rt : Reg) (s : State) : Out :=
  ee128Result (.pand rd rs rt) rd (s.eeReg rs &&& s.eeReg rt) s
/-- POR (R334). -/
def execPor (rd rs rt : Reg) (s : State) : Out :=
  ee128Result (.por rd rs rt) rd (s.eeReg rs ||| s.eeReg rt) s
/-- PXOR (R335). -/
def execPxor (rd rs rt : Reg) (s : State) : Out :=
  ee128Result (.pxor rd rs rt) rd (s.eeReg rs ^^^ s.eeReg rt) s
/-- PNOR (R336). -/
def execPnor (rd rs rt : Reg) (s : State) : Out :=
  ee128Result (.pnor rd rs rt) rd (~~~(s.eeReg rs ||| s.eeReg rt)) s
/-- PCPYLD (R337). -/
def execPcpyld (rd rs rt : Reg) (s : State) : Out :=
  ee128Result (.pcpyld rd rs rt) rd (dwordLane (s.eeReg rs) 0 ++ dwordLane (s.eeReg rt) 0) s
/-- PCPYUD (R338). -/
def execPcpyud (rd rs rt : Reg) (s : State) : Out :=
  ee128Result (.pcpyud rd rs rt) rd (dwordLane (s.eeReg rt) 1 ++ dwordLane (s.eeReg rs) 1) s

end Sys2Proof.Machine
end

