-- ==== Sys2Proof/Machine/MulDiv.lean ====
section
/-! DEFINITION. Multiply, divide, and the moves of HI and LO (41_integer.md section 5). -/

namespace Sys2Proof.Machine

/-- The halves of a 64-bit product into HI and LO, and on the EE the low half into rd (R263). -/
def writeProduct (rd : Reg) (p : Dword) (s : State) : State :=
  let t := s.setHiLo (p.extractLsb' 32 32) (p.extractLsb' 0 32)
  match s.cpu with
  | .ee => t.w32s rd (p.extractLsb' 0 32)
  | .iop => t

/-- The pair (LO, HI) of DIV: quotient toward zero and remainder with the dividend's sign, and the two corners
(R264, R296). -/
def divResult (a b : Word) : Word × Word :=
  if b = 0 then Config.divByZero a
  else if a = 0x80000000#32 ∧ b = 0xFFFFFFFF#32 then Config.divOverflow
  else
    let q := a.toInt.tdiv b.toInt
    (BitVec.ofInt 32 q, BitVec.ofInt 32 (a.toInt - q * b.toInt))

/-- The pair (LO, HI) of DIVU (R264, R297). -/
def divuResult (a b : Word) : Word × Word :=
  if b = 0 then Config.divuByZero a
  else
    let q := a.toNat / b.toNat
    (BitVec.ofNat 32 q, BitVec.ofNat 32 (a.toNat - q * b.toNat))

/-- MULT (R294). -/
def execMult (rd rs rt : Reg) (s : State) : Out :=
  .next (writeProduct rd (BitVec.ofInt 64 ((s.r32 rs).toInt * (s.r32 rt).toInt)) s)
/-- MULTU (R295). -/
def execMultu (rd rs rt : Reg) (s : State) : Out :=
  .next (writeProduct rd (BitVec.ofNat 64 ((s.r32 rs).toNat * (s.r32 rt).toNat)) s)
/-- DIV (R296). -/
def execDiv (rs rt : Reg) (s : State) : Out :=
  .next (s.setHiLo (divResult (s.r32 rs) (s.r32 rt)).2 (divResult (s.r32 rs) (s.r32 rt)).1)
/-- DIVU (R297). -/
def execDivu (rs rt : Reg) (s : State) : Out :=
  .next (s.setHiLo (divuResult (s.r32 rs) (s.r32 rt)).2 (divuResult (s.r32 rs) (s.r32 rt)).1)

/-- MFHI (R298). -/
def execMfhi (rd : Reg) (s : State) : Out :=
  match s.cpu with
  | .ee => .next (s.setEe64 rd (s.ee.hi.setWidth 64))
  | .iop => .next (s.setIopReg rd s.iop.hi)
/-- MFLO (R299). -/
def execMflo (rd : Reg) (s : State) : Out :=
  match s.cpu with
  | .ee => .next (s.setEe64 rd (s.ee.lo.setWidth 64))
  | .iop => .next (s.setIopReg rd s.iop.lo)
/-- MTHI (R300). -/
def execMthi (rs : Reg) (s : State) : Out :=
  match s.cpu with
  | .ee => .next (s.setEeHi (s.ee64 rs))
  | .iop => .next (s.setIopHi (s.iopReg rs))
/-- MTLO (R301). -/
def execMtlo (rs : Reg) (s : State) : Out :=
  match s.cpu with
  | .ee => .next (s.setEeLo (s.ee64 rs))
  | .iop => .next (s.setIopLo (s.iopReg rs))

end Sys2Proof.Machine
end

