-- ==== Sys2Proof/Machine/Shift.lean ====
section
/-! DEFINITION. The 32-bit shifts of both CPUs (41_integer.md section 4). -/

namespace Sys2Proof.Machine

/-- SLL (R288). -/
def execSll (rd rt : Reg) (sa : BitVec 5) (s : State) : Out := .next (s.w32s rd (s.r32 rt <<< sa.toNat))
/-- SRL (R289). -/
def execSrl (rd rt : Reg) (sa : BitVec 5) (s : State) : Out := .next (s.w32s rd (s.r32 rt >>> sa.toNat))
/-- SRA (R290). -/
def execSra (rd rt : Reg) (sa : BitVec 5) (s : State) : Out := .next (s.w32s rd ((s.r32 rt).sshiftRight sa.toNat))
/-- SLLV (R291). -/
def execSllv (rd rt rs : Reg) (s : State) : Out := .next (s.w32s rd (s.r32 rt <<< s.shiftAmount5 rs))
/-- SRLV (R292). -/
def execSrlv (rd rt rs : Reg) (s : State) : Out := .next (s.w32s rd (s.r32 rt >>> s.shiftAmount5 rs))
/-- SRAV (R293). -/
def execSrav (rd rt rs : Reg) (s : State) : Out := .next (s.w32s rd ((s.r32 rt).sshiftRight (s.shiftAmount5 rs)))

end Sys2Proof.Machine
end

