-- ==== Sys2Proof/Machine/System.lean ====
section
/-! DEFINITION. System instructions: SYSCALL, BREAK, the COP0 moves, ERET, RFE, EI, DI and the TLB operations
(43_system.md). None checks the mode (60_exceptions.md R445). -/

namespace Sys2Proof.Machine

/-! ## Exceptions -/

/-- SYSCALL (R380); the code field is read by nothing. -/
def execSyscall (_code : BitVec 20) (s : State) : Out := raise .syscall s
/-- BREAK (R381); the code field is read by nothing. -/
def execBreak (_code : BitVec 20) (s : State) : Out := raise .breakpoint s

/-! ## COP0 moves (R382 to R384) -/

/-- A COP0 register read: the value and the state after it; an unmodelled register is a draw (R382). -/
def cop0Read (s : State) (n : Reg) : Word × State :=
  match s.cpu, n.val with
  | .ee, 9 => (s.ee.count, s)
  | .ee, 11 => (s.ee.compare, s)
  | .ee, 30 => (s.ee.errorEpc, s)
  | _, 12 => (s.ctl.status, s)
  | _, 13 => (s.causeLive, s)
  | _, 14 => (s.ctl.epc, s)
  | .ee, 15 => (Config.eePrid, s)
  | .iop, 15 => (Config.iopPrid, s)
  | _, _ => (s.nextDraw.setWidth 32, s.afterDraw)

/-- A write of Cause: none on the EE, bits 9:8 on the IOP (R384). -/
def writeCause (s : State) (v : Word) : State :=
  match s.cpu with
  | .ee => s
  | .iop => s.setCtl { s.ctl with cause := mergeBits 0x00000300#32 s.ctl.cause v }

/-- A COP0 register write; PRId and the unmodelled registers take none (R383). -/
def cop0Write (s : State) (n : Reg) (v : Word) : State :=
  match s.cpu, n.val with
  | .ee, 9 => { s with ee := { s.ee with count := v } }
  | .ee, 11 =>
    { s with ee := { s.ee with compare := v, ctl := { s.ee.ctl with cause := setBit s.ee.ctl.cause 15 false } } }
  | .ee, 30 => { s with ee := { s.ee with errorEpc := v } }
  | _, 12 => s.setStatus v
  | _, 13 => writeCause s v
  | _, 14 => s.setCtl { s.ctl with epc := v }
  | _, _ => s

/-- MFC0 (R382). -/
def execMfc0 (rt rd : Reg) (s : State) : Out := .next ((cop0Read s rd).2.w32s rt (cop0Read s rd).1)
/-- MTC0 (R383). -/
def execMtc0 (rt rd : Reg) (s : State) : Out := .next (cop0Write s rd (s.r32 rt))

/-! ## Returns -/

/-- ERET (R385): EE only, never in a delay slot. -/
def execEret (s : State) : Out :=
  onlyOn .ee .eret s (outsideSlot s (.next (returnFromException Config.eeEretPop s)))
/-- RFE (R386): IOP only, allowed in a delay slot. -/
def execRfe (s : State) : Out :=
  onlyOn .iop .rfe s (.next (restoreFromException Config.iopRfeSetsPc s))

/-! ## Interrupt enable (R387, R388) -/

/-- EI (R387): Status.EIE, bit 16, set. -/
def execEi (s : State) : Out := onlyOn .ee .ei s (.next (s.setStatus (setBit s.ctl.status 16 true)))
/-- DI (R388): Status.EIE, bit 16, cleared. -/
def execDi (s : State) : Out := onlyOn .ee .di s (.next (s.setStatus (setBit s.ctl.status 16 false)))

/-! ## TLB operations: no effect (R389 to R392) -/

/-- TLBR (R389). -/
def execTlbr (s : State) : Out := onlyOn .ee .tlbr s (.next s)
/-- TLBWI (R390). -/
def execTlbwi (s : State) : Out := onlyOn .ee .tlbwi s (.next s)
/-- TLBWR (R391). -/
def execTlbwr (s : State) : Out := onlyOn .ee .tlbwr s (.next s)
/-- TLBP (R392). -/
def execTlbp (s : State) : Out := onlyOn .ee .tlbp s (.next s)

end Sys2Proof.Machine
end

