-- ==== Sys2Proof/Machine/CpuStep.lean ====
section
/-! DEFINITION. One step of one CPU: fetch, decode, execute, advance, the EE's Count tick and the interrupt check
(40_control_flow.md R200 to R203; 60_exceptions.md R420, R561). -/

namespace Sys2Proof.Machine

/-- The physical address the executing CPU fetches from. -/
def State.fetchAddr (s : State) : Word := translate s.cpu s.pc

/-- Step 1, fetch: an aligned word through the page table, never from a device (R201; 10_state.md R48;
20_memory.md R113). -/
def fetch (s : State) : Except Fault Word :=
  if s.pc.toNat % 4 ≠ 0 then .error (.misalignedFetch s.pc)
  else
    match pageEntry s.cpu s.fetchAddr with
    | some r => .ok ((s.mem.readLE (regionKey r s.fetchAddr) 4).setWidth 32)
    | none => .error (.unmappedAccess s.pc 4 false)

/-- Step 5, `Advance()`: pc moves by 4, then a branch latched one step earlier is applied, then a branch requested
in this step is latched (R203). -/
def advance (s : State) : State :=
  s.setCtl { s.ctl with
    pc := if s.ctl.inDelaySlot then s.ctl.branchTarget else s.ctl.pc + 4
    inDelaySlot := s.ctl.branchPending
    branchPending := false }

/-- `CountTick()`, EE only: Count moves by 1 and sets Cause.IP7 where it meets Compare (60_exceptions.md R561). -/
def countTick (s : State) : State :=
  match s.cpu with
  | .iop => s
  | .ee =>
    let count := s.ee.count + 1
    { s with ee := { s.ee with
        count := count
        ctl := { s.ee.ctl with
          cause := if count = s.ee.compare then setBit s.ee.ctl.cause 15 true else s.ee.ctl.cause } } }

/-- `InterruptCheck()` (60_exceptions.md R420). -/
def interruptCheck (s : State) : State :=
  if s.interruptTaken then doException .interrupt .boundary s else s

/-- Steps 5 and 6 (R200). -/
def finishStep (s : State) : State := interruptCheck (countTick (advance s))

/-- Steps 3 and 4: the meaning of the decoded instruction, or the stop its class names (30_encoding.md R185, R186). -/
def execDecoded (d : Decoded) (w : Word) (s : State) : Out :=
  match d with
  | .instr i => exec i s
  | .illegal => .fault (.illegalInstruction w s.pc)
  | .notAdmitted => .refused (.notAdmitted w s.pc)
  | .externalCoprocessor => .refused (.externalCoprocessor w s.pc)

/-- One step of the executing CPU (R200). -/
def cpuStep (s : State) : Out :=
  match fetch s with
  | .error f => .fault f
  | .ok w => andThen (execDecoded (decode s.cpu w) w s) fun t => .next (finishStep t)

/-- The CPU that is to run a word next: the one whose turn it is where it admits the word, else one that does. -/
def fetchingCpu (s : State) (w : Word) : Cpu :=
  match s.turn with
  | .cpu c => if ((decode c w).instr?).isSome then c else admittingCpu w
  | _ => admittingCpu w

/-- The turn given to a CPU: nothing changes where it has it. -/
def giveTurn (s : State) (c : Cpu) : State :=
  if s.turn = .cpu c then s else { s with turn := .cpu c, ticks := 0 }

/-- A word stored where the executing CPU fetches its next instruction. -/
def storeAtFetch (s : State) (w : Word) : State :=
  match pageEntry s.cpu s.fetchAddr with
  | some r => { s with mem := s.mem.writeLE (regionKey r s.fetchAddr) 4 (w.setWidth 128) }
  | none => s

end Sys2Proof.Machine
end

