-- ==== Sys2Proof/Machine/Frame.lean ====
section
/-! DEFINITION. The frame driver as a position in its loop: whose turn it is and what one turn does
(60_exceptions.md R583). -/

namespace Sys2Proof.Machine

/-- How many steps, ticks or cycles an agent does in one quantum (R583). -/
def turnBudget : Turn → Nat
  | .cpu .ee => Config.quantum
  | .eeDmac => Config.quantum / 2
  | .eeTimers => Config.quantum / 2
  | .cpu .iop => Config.quantum / 8
  | .iopDmac => Config.quantum / 8
  | .iopTimers => Config.quantum / 8
  | .scheduler => 1
  | .events => 1

/-- The order of the phases of a quantum (R583). -/
def nextTurn : Turn → Turn
  | .cpu .ee => .eeDmac
  | .eeDmac => .eeTimers
  | .eeTimers => .cpu .iop
  | .cpu .iop => .iopDmac
  | .iopDmac => .iopTimers
  | .iopTimers => .scheduler
  | .scheduler => .events
  | .events => .cpu .ee

/-- The end of one step, tick or cycle: the same agent goes on, or the next phase begins. -/
def endTick (s : State) : State :=
  if s.ticks + 1 < turnBudget s.turn then { s with ticks := s.ticks + 1 }
  else { s with turn := nextTurn s.turn, ticks := 0 }

/-- The end of a quantum: the next one of the frame begins, or the next frame (R583). -/
def endQuantum (s : State) : State :=
  { s with
    turn := .cpu .ee
    ticks := 0
    elapsed := if s.elapsed + Config.quantum < Config.frameCycles then s.elapsed + Config.quantum else 0 }

/-- One turn of the loop of `RunEvents()`: a due event fires, or the quantum ends (R582, R583). -/
def eventsTurn (s : State) : State :=
  match s.dueEvent with
  | some e => fireEvent e s
  | none => endQuantum s

/-- What the agent whose turn it is does. -/
def agentAction (s : State) : Out :=
  match s.turn with
  | .cpu _ => cpuStep s
  | .eeDmac => eeDmacTick s
  | .eeTimers => .next (eeTimersCycle s)
  | .iopDmac => iopDmacTick s
  | .iopTimers => .next (iopTimersCycle s)
  | .scheduler => .next (schedulerPhase s)
  | .events => .next (eventsTurn s)

/-- The position after an action: the events turn moves itself on. -/
def afterAction (turn : Turn) (s : State) : State :=
  match turn with
  | .events => s
  | _ => endTick s

/-- A frame begins here: `elapsed` is 0 and the EE has not stepped in its first quantum (R583). -/
def State.atFrameStart (s : State) : Bool := s.turn == .cpu .ee && s.ticks == 0 && s.elapsed == 0

end Sys2Proof.Machine
end

