-- ==== Sys2Proof/Machine/Step.lean ====
section
/-! DEFINITION. One step of the block: the action of the agent whose turn it is, then the position moves on
(00_scope.md R29; 60_exceptions.md R583). And an instruction put where the next step fetches. -/

namespace Sys2Proof.Machine

/-- One step of the block. -/
def step (s : State) : Host.Outcome State Fault Refusal :=
  andThen (agentAction s) fun t => .next (afterAction s.turn t)

/-- The state with an instruction word stored where the next step fetches, and the turn given to a CPU that
admits it (log 2). -/
def State.withFetchWord (s : State) (nbits w : Nat) : State :=
  let word := BitVec.ofNat 32 (w % 2 ^ nbits)
  storeAtFetch (giveTurn s (fetchingCpu s word)) word

end Sys2Proof.Machine
end

