-- ==== Sys2Proof/Machine/Session.lean ====
section
/-! DEFINITION. The host's session interface: the BIOS image and `LoadElf` before the first step, `SingleStep`,
`RunFrame` (70_reset_and_hazards.md R610; 60_exceptions.md R583, R585; 00_scope.md R30). -/

namespace Sys2Proof.Machine

/-- The BIOS image loaded as part of reset, from the base of its buffer on; none where it is longer than the
buffer (70_reset_and_hazards.md R610, log 1). -/
def State.loadBios (s : State) (image : List Byte) : Option State :=
  if image.length ≤ 0x400000 then some { s with mem := s.mem.writeBytes (bufBase .bios) image } else none

/-- The key of a byte of an ELF segment: only a writable EE region takes it (70_reset_and_hazards.md R610). -/
def elfByteKey (pa : Nat) : Option Nat :=
  if pa < 2 ^ 32 then
    match pageEntry .ee (BitVec.ofNat 32 pa) with
    | some r => if r.writable then some (regionKey r (BitVec.ofNat 32 pa)) else none
    | none => none
  else none

/-- The bytes of one segment written from `pa` on; none where a byte falls outside a writable EE region. -/
def loadSegment (m : Memory) (pa : Nat) : List Byte → Option Memory
  | [] => some m
  | b :: bs =>
    match elfByteKey pa with
    | some k => loadSegment (m.write k b) (pa + 1) bs
    | none => none

/-- The segments of an image written in order. -/
def loadSegments (m : Memory) : List (Nat × List Byte) → Option Memory
  | [] => some m
  | (pa, bytes) :: segs =>
    match loadSegment m pa bytes with
    | some m' => loadSegments m' segs
    | none => none

/-- `LoadElf(segments, entry)`: the load is refused as a whole, or the bytes are in memory and `EE.pc` is the
entry (70_reset_and_hazards.md R610). -/
def State.loadElf (s : State) (segments : List (Nat × List Byte)) (entry : Word) : Option State :=
  (loadSegments s.mem segments).map fun m =>
    { s with mem := m, ee := { s.ee with ctl := { s.ee.ctl with pc := entry } } }

/-- `SingleStep()` and `SingleStep(IOP)`: one step of one CPU, with no device and no scheduler phase; the frame
driver's position does not move (60_exceptions.md R585). -/
def singleStep (c : Cpu) (s : State) : Out :=
  andThen (cpuStep { s with turn := .cpu c }) fun t => .next { t with turn := s.turn }

/-- `k` calls of `SingleStep`. -/
def singleSteps (c : Cpu) : Nat → State → Out
  | 0, s => .next s
  | k + 1, s => andThen (singleStep c s) (singleSteps c k)

/-- `RunFrame()`: steps until the frame's budget is consumed, within `fuel` steps (60_exceptions.md R583). -/
def runFrame : Nat → State → Out
  | 0, s => .next s
  | fuel + 1, s => andThen (step s) fun t => if t.atFrameStart then .next t else runFrame fuel t

end Sys2Proof.Machine
end

