-- ==== Sys2Proof/Safety.lean ====
section
/-! DEFINITION. The terms the statements use: runs and safe runs, what a meaning writes and what it leaves alone
(frames), which registers and memory an instruction may touch, and the invariants of the block. -/

namespace Sys2Proof.Machine

/-! ## Runs -/

/-- `k` steps of the block, stopping at the first fault or refusal (00_scope.md R22, R23). -/
def runSteps : Nat → State → Out
  | 0, s => .next s
  | k + 1, s => andThen (step s) (runSteps k)

/-- No fault and no refusal stops the block within `k` steps. -/
def State.safeFor (k : Nat) (s : State) : Prop := ∃ t, runSteps k s = .next t

/-- `k` ticks of the EE DMAC, `Dmac.Run(k)` (60_exceptions.md R471). -/
def eeDmacRun : Nat → State → Out
  | 0, s => .next s
  | k + 1, s => andThen (eeDmacTick s) (eeDmacRun k)

/-- `k` ticks of the IOP DMAC (60_exceptions.md R471). -/
def iopDmacRun : Nat → State → Out
  | 0, s => .next s
  | k + 1, s => andThen (iopDmacTick s) (iopDmacRun k)

/-! ## Frames: what one instruction writes -/

/-- Every byte of memory reads the same. -/
def SameMemory (s t : State) : Prop := ∀ a, t.mem.read a = s.mem.read a

/-- The 128-bit value `v` was written to EE register `rd`, and nothing else changed: r0 still reads zero and its
write changes nothing; the other registers, every byte of memory and every other field are as before. -/
structure EeRegWritten (s : State) (rd : Reg) (v : Quad) (t : State) : Prop where
  value : t.eeReg rd = if rd = 0 then 0 else v
  discarded : rd = 0 → t = s
  others : ∀ r, r ≠ rd → t.eeReg r = s.eeReg r
  memory : SameMemory s t
  rest : { t with ee := { t.ee with gpr := s.ee.gpr } } = s

/-- The 32-bit value `v` was written to IOP register `rd`, and nothing else changed. -/
structure IopRegWritten (s : State) (rd : Reg) (v : Word) (t : State) : Prop where
  value : t.iopReg rd = if rd = 0 then 0 else v
  discarded : rd = 0 → t = s
  others : ∀ r, r ≠ rd → t.iopReg r = s.iopReg r
  memory : SameMemory s t
  rest : { t with iop := { t.iop with gpr := s.iop.gpr } } = s

/-- A W-bit value was written with `wW` (00_scope.md R18): on the EE `e` into bits 63:0 of `rd`, its bits 127:64 as
before; on the IOP `p` into `rd`; nothing else changed. -/
def RegWritten (s : State) (rd : Reg) (e : Dword) (p : Word) (t : State) : Prop :=
  match s.cpu with
  | .ee => EeRegWritten s rd ((s.eeReg rd).extractLsb' 64 64 ++ e) t
  | .iop => IopRegWritten s rd p t

/-- A 32-bit value was written with `w32s` (00_scope.md R18): sign-extended on the EE, as it is on the IOP. -/
def Reg32Written (s : State) (rd : Reg) (v : Word) (t : State) : Prop := RegWritten s rd (v.signExtend 64) v t

/-- The executing CPU's control state (pc, delay-slot controller, Status, Cause, EPC) became `c`, and nothing else
changed. -/
structure CtlWritten (s : State) (c : CpuCtl) (t : State) : Prop where
  ctl : t.ctl = c
  registers : ∀ r, t.eeReg r = s.eeReg r ∧ t.iopReg r = s.iopReg r
  memory : SameMemory s t
  rest : t.setCtl s.ctl = s

/-- The `n` bytes of `v`, lowest first, were stored from memory key `a` on, and nothing else changed
(20_memory.md R130). -/
structure MemWritten (s : State) (a n : Nat) (v : Quad) (t : State) : Prop where
  stored : ∀ k, k < n → t.mem.read (a + k) = v.extractLsb' (8 * k) 8
  others : ∀ b, b < a ∨ a + n ≤ b → t.mem.read b = s.mem.read b
  registers : ∀ r, t.eeReg r = s.eeReg r ∧ t.iopReg r = s.iopReg r
  rest : { t with mem := s.mem } = s

/-- HI and LO of the executing CPU replaced in their operating width: on the EE bits 127:64 of each are as before
(10_state.md R45). -/
def State.withHiLo (s : State) (h l : Word) : State :=
  match s.cpu with
  | .ee => { s with ee := { s.ee with
      hi := s.ee.hi.extractLsb' 64 64 ++ h.signExtend 64
      lo := s.ee.lo.extractLsb' 64 64 ++ l.signExtend 64 } }
  | .iop => { s with iop := { s.iop with hi := h, lo := l } }

/-- The instruction completes, and its 32-bit result is written with `w32s`. -/
def CompletesWriting32 (i : Instr) (s : State) (rd : Reg) (v : Word) : Prop :=
  ∃ t, exec i s = .next t ∧ Reg32Written s rd v t

/-- The instruction completes, and its W-bit result is written with `wW`: `e` on the EE, `p` on the IOP. -/
def CompletesWriting (i : Instr) (s : State) (rd : Reg) (e : Dword) (p : Word) : Prop :=
  ∃ t, exec i s = .next t ∧ RegWritten s rd e p t

/-- On the EE the instruction completes and writes `v` into bits 63:0 of `rd`; on the IOP it is illegal
(30_encoding.md R185). -/
def CompletesWritingEe64 (i : Instr) (s : State) (rd : Reg) (v : Dword) : Prop :=
  (s.cpu = .ee → ∃ t, exec i s = .next t ∧ EeRegWritten s rd ((s.eeReg rd).extractLsb' 64 64 ++ v) t) ∧
  (s.cpu = .iop → exec i s = .fault (.illegalInstruction (encode i) s.pc))

/-- On the EE the instruction completes and writes the whole of `rd`; on the IOP it is illegal. -/
def CompletesWritingEe128 (i : Instr) (s : State) (rd : Reg) (v : Quad) : Prop :=
  (s.cpu = .ee → ∃ t, exec i s = .next t ∧ EeRegWritten s rd v t) ∧
  (s.cpu = .iop → exec i s = .fault (.illegalInstruction (encode i) s.pc))

/-- The instruction completes, and changes the executing CPU's control state to `c` and nothing else. -/
def CompletesWritingCtl (i : Instr) (s : State) (c : CpuCtl) : Prop :=
  ∃ t, exec i s = .next t ∧ CtlWritten s c t

/-- The control state after `Branch(t)` (40_control_flow.md R206): the target is recorded, the request is pending,
and pc is not written. -/
def CpuCtl.requesting (c : CpuCtl) (t : Word) : CpuCtl := { c with branchTarget := t, branchPending := true }

/-- The control state with pc moved past the delay slot (40_control_flow.md R209). -/
def CpuCtl.skipping (c : CpuCtl) : CpuCtl := { c with pc := c.pc + 4 }

/-- A branch or jump: in a delay slot it faults before any other effect (40_control_flow.md R207); outside one it
completes with the control state `c` and, where `link` holds, with the link value in register `rd`
(40_control_flow.md R211); nothing else changes. -/
def BranchOutcome (i : Instr) (s : State) (link : Option Reg) (c : CpuCtl) : Prop :=
  (s.ctl.inDelaySlot = true → exec i s = .fault (.branchInDelaySlot s.pc)) ∧
  (s.ctl.inDelaySlot = false → ∃ t, exec i s = .next t ∧
    match link with
    | none => CtlWritten s c t
    | some rd => ∃ u, Reg32Written s rd (s.pc + 8) u ∧ CtlWritten u c t)

/-- An EE-only branch: illegal on the IOP (30_encoding.md R185). -/
def EeBranchOutcome (i : Instr) (s : State) (link : Option Reg) (c : CpuCtl) : Prop :=
  (s.cpu = .ee → BranchOutcome i s link c) ∧
  (s.cpu = .iop → exec i s = .fault (.illegalInstruction (encode i) s.pc))

/-- A load of `n` bytes at `va`: where the read completes with value `v` in state `u`, the load completes in a state
`t` that `written v u t` describes; where the read faults, so does the load (42_load_store.md R351). -/
def LoadOutcome (i : Instr) (s : State) (va : Word) (n : Nat) (written : Quad → State → State → Prop) : Prop :=
  (∀ v u, memRead s va n = .value v u → ∃ t, exec i s = .next t ∧ written v u t) ∧
  (∀ f, memRead s va n = .fault f → exec i s = .fault f)

/-- A load of the EE alone: illegal on the IOP (30_encoding.md R185). -/
def EeLoadOutcome (i : Instr) (s : State) (va : Word) (n : Nat) (written : Quad → State → State → Prop) : Prop :=
  (s.cpu = .ee → LoadOutcome i s va n written) ∧
  (s.cpu = .iop → exec i s = .fault (.illegalInstruction (encode i) s.pc))

/-- The signed W-bit value of a register (00_scope.md R18): 64 bits on the EE, 32 on the IOP. -/
def State.signedW (s : State) (r : Reg) : Int :=
  match s.cpu with
  | .ee => (s.ee64 r).toInt
  | .iop => (s.iopReg r).toInt

/-- The unsigned W-bit value of a register. -/
def State.unsignedW (s : State) (r : Reg) : Nat :=
  match s.cpu with
  | .ee => (s.ee64 r).toNat
  | .iop => (s.iopReg r).toNat

/-! ## What an instruction may touch -/

/-- The general registers an instruction may write: the one it names as its destination, and r31 for the linking
branches and JAL (10_state.md R43). -/
def destinationsOf : Instr → List Reg
  | .bltzal .. | .bgezal .. | .bltzall .. | .bgezall .. | .jal .. => [31]
  | .jalr rd _ => [rd]
  | .add rd _ _ | .addu rd _ _ | .sub rd _ _ | .subu rd _ _ | .and rd _ _ | .or rd _ _ | .xor rd _ _ | .nor rd _ _
  | .slt rd _ _ | .sltu rd _ _ | .sll rd _ _ | .srl rd _ _ | .sra rd _ _ | .sllv rd _ _ | .srlv rd _ _
  | .srav rd _ _ | .mult rd _ _ | .multu rd _ _ | .mfhi rd | .mflo rd => [rd]
  | .daddu rd _ _ | .dsubu rd _ _ | .dsll rd _ _ | .dsrl rd _ _ | .dsra rd _ _ | .dsll32 rd _ _ | .dsrl32 rd _ _
  | .dsra32 rd _ _ | .dsllv rd _ _ | .dsrlv rd _ _ | .dsrav rd _ _ | .movz rd _ _ | .movn rd _ _ => [rd]
  | .addi rt _ _ | .addiu rt _ _ | .slti rt _ _ | .sltiu rt _ _ | .andi rt _ _ | .ori rt _ _ | .xori rt _ _
  | .daddiu rt _ _ | .lui rt _ => [rt]
  | .paddw rd _ _ | .psubw rd _ _ | .pand rd _ _ | .por rd _ _ | .pxor rd _ _ | .pnor rd _ _ | .pcpyld rd _ _
  | .pcpyud rd _ _ => [rd]
  | .lb rt _ _ | .lbu rt _ _ | .lh rt _ _ | .lhu rt _ _ | .lw rt _ _ | .lwu rt _ _ | .lq rt _ _ | .ld rt _ _ => [rt]
  | .mfc0 rt _ => [rt]
  | .beq .. | .bne .. | .blez .. | .bgtz .. | .beql .. | .bnel .. | .blezl .. | .bgtzl .. | .bltz .. | .bgez ..
  | .bltzl .. | .bgezl .. | .j .. | .jr .. | .div .. | .divu .. | .mthi .. | .mtlo .. | .sync .. | .syscall ..
  | .brk .. | .sb .. | .sh .. | .sw .. | .sq .. | .sd .. | .cache .. | .mtc0 .. | .eret | .rfe | .ei | .di | .tlbr
  | .tlbwi | .tlbwr | .tlbp => []

/-- The stores (42_load_store.md section 3). -/
def isStore : Instr → Bool
  | .sb .. | .sh .. | .sw .. | .sq .. | .sd .. => true
  | _ => false

/-- The address and the number of bytes of a store, computed as its meaning computes them
(42_load_store.md R350, R362 to R366). -/
def storeSpan (i : Instr) (s : State) : Option (Word × Nat) :=
  match i with
  | .sb _ base off => some (s.effAddr base off, 1)
  | .sh _ base off => some (s.effAddr base off, 2)
  | .sw _ base off => some (s.effAddr base off, 4)
  | .sd _ base off => some (s.effAddr base off, 8)
  | .sq _ base off => some (s.quadAddr base off, 16)
  | _ => none

/-- The instructions that access memory or a device (42_load_store.md sections 2 and 3). -/
def accessesMemory : Instr → Bool
  | .lb .. | .lbu .. | .lh .. | .lhu .. | .lw .. | .lwu .. | .lq .. | .ld .. => true
  | i => isStore i

/-- The instructions that write HI or LO (10_state.md R45). -/
def writesHiLo : Instr → Bool
  | .mult .. | .multu .. | .div .. | .divu .. | .mthi .. | .mtlo .. => true
  | _ => false

/-- The instructions that may change Status: MTC0, the returns, EI and DI, and those that may raise an exception
(43_system.md; 60_exceptions.md R401). -/
def mayChangeStatus : Instr → Bool
  | .mtc0 .. | .eret | .rfe | .ei | .di | .syscall .. | .brk .. | .add .. | .sub .. | .addi .. => true
  | _ => false

/-! ## The DMA lines, bit by bit -/

/-- INT1 of D_STAT: a channel status bit with its mask bit, SIS with SIM, MEIS with MEIM, or BEIS
(60_exceptions.md R483, R503). -/
def eeDmacLine (d : Word) : Bool :=
  (List.range 10).any (fun j => d.getLsbD j && d.getLsbD (16 + j)) ||
    (d.getLsbD 13 && d.getLsbD 29) || (d.getLsbD 14 && d.getLsbD 30) || d.getLsbD 15

/-- The line of DICR and DICR2: the force bit, or a flag of either with its mask bit (60_exceptions.md R526). -/
def iopDmacLine (dicr dicr2 : Word) : Bool :=
  dicr.getLsbD 15 || (List.range 7).any (fun j => dicr.getLsbD (24 + j) && dicr.getLsbD (16 + j)) ||
    (List.range 6).any (fun j => dicr2.getLsbD (24 + j) && dicr2.getLsbD (16 + j))

/-! ## Invariants -/

/-- No bit of `v` lies outside `mask`. -/
def Within {w : Nat} (mask v : BitVec w) : Prop := v &&& ~~~mask = 0

/-- The key of a byte of one of the five buffers (20_memory.md R107). -/
def InBuffer (key : Nat) : Prop :=
  key < 0x02000000 ∨ (0x1C000000 ≤ key ∧ key < 0x1C200000) ∨ (0x1F800000 ≤ key ∧ key < 0x1F800400) ∨
  (0x1FC00000 ≤ key ∧ key < 0x20000000) ∨ (0x70000000 ≤ key ∧ key < 0x70004000)

/-- Memory is in canonical form, and lists only bytes of the five buffers (20_memory.md R107, R114). -/
structure State.MemInv (s : State) : Prop where
  canonical : s.mem.wf
  inBuffers : ∀ c ∈ s.mem, InBuffer c.1

/-- Register 0 holds zero in both files (10_state.md R41), and the stored Cause holds only the bits its table gives
a writer: BD, IP7 and ExcCode on the EE (R55), BD, IP bits 9:8 and ExcCode on the IOP (R59). -/
structure State.CoreInv (s : State) : Prop where
  eeZero : s.ee.gpr[0] = 0
  iopZero : s.iop.gpr[0] = 0
  eeCause : Within 0x8000807C#32 s.ee.ctl.cause
  iopCause : Within 0x8000037C#32 s.iop.ctl.cause

/-- An EE DMA channel stores only the bits its table names, and its phase is Idle exactly while its start bit is
clear (60_exceptions.md R471, R482, R490, R497). -/
structure EeChannel.Inv (c : EeChannel) : Prop where
  chcr : Within 0xFFFF01FD#32 c.chcr
  madr : Within 0xFFFFFFF0#32 c.madr
  tadr : Within 0xFFFFFFF0#32 c.tadr
  asr0 : Within 0xFFFFFFF0#32 c.asr0
  asr1 : Within 0xFFFFFFF0#32 c.asr1
  sadr : Within 0x00003FF0#32 c.sadr
  phase : c.phase = .idle ↔ c.chcr.getLsbD 8 = false

/-- The phase of an IOP DMA channel is Active exactly while its start bit is set, and Idle else
(60_exceptions.md R521 to R524). -/
def IopChannel.Inv (c : IopChannel) : Prop :=
  c.phase = if c.chcr.getLsbD 24 then .active else .idle

/-- An EE timer's mode holds bits 11:0 only, and its gate is off (60_exceptions.md R541). -/
def EeTimer.Inv (t : EeTimer) : Prop := Within 0x00000FFB#32 t.mode

/-- An IOP timer's mode holds bits 15:1 only, and its count and target fit its width (60_exceptions.md R570, R571). -/
def IopTimer.Inv (n : Fin 6) (t : IopTimer) : Prop :=
  Within 0x0000FFFE#32 t.mode ∧ (n.val ≤ 2 → t.count.toNat < 0x10000 ∧ t.target.toNat < 0x10000)

/-- The devices store only what their tables name. -/
structure State.DeviceInv (s : State) : Prop where
  eeChannels : ∀ ch, (s.eeChannel ch).Inv
  iopChannels : ∀ ch, (s.iopChannel ch).Inv
  dStat : Within 0x63FFE3FF#32 s.eeDmac.dStat
  dicr : Within 0x7FFFFFFF#32 s.iopDmac.dicr
  dicr2 : Within 0x3FFFFFFF#32 s.iopDmac.dicr2
  iopStat : Within 0x03FFFFFF#32 s.iopIntc.stat
  eeTimers : ∀ n, (s.eeTimer n).Inv
  iopTimers : ∀ n, (s.iopTimer n).Inv n

/-- The driver stands at a position of its loop (60_exceptions.md R583), and the queue is sorted by deadline (R580). -/
structure State.DriverInv (s : State) : Prop where
  ticks : s.ticks < turnBudget s.turn
  elapsed : s.elapsed < Config.frameCycles
  boundary : s.elapsed % Config.quantum = 0
  sorted : s.sched.queue.Pairwise (fun e f => e.deadline.toNat ≤ f.deadline.toNat)

end Sys2Proof.Machine
end

