-- ==== Sys2Proof/Certificates/Slice0/Obligations.lean ====
section
/-! DEFINITION. The statements for the provers, one `def Obligations.<Name> : Prop` each. The vocabulary (what was
written, frames, invariants, runs) is in Sys2Proof/Safety.lean. -/

section
open Sys2Proof Sys2Proof.Machine

/-! ## Encoding -/

/-- Decoding the encoding of an instruction a CPU admits gives it back, with every operand at every value
(30_encoding.md sections 2 to 4). -/
def Obligations.EncodeDecodeRoundTrip : Prop :=
  ∀ (c : Cpu) (i : Instr), i.wellFormed c = true → decode c (encode i) = .instr i

/-- A word that decodes to an instruction on a CPU decodes to one that CPU admits (30_encoding.md R187). -/
def Obligations.DecodedInstructionsAreAdmitted : Prop :=
  ∀ (c : Cpu) (w : Word) (i : Instr), decode c w = .instr i → i.wellFormed c = true

/-- Words written out in 95_test_vectors.md (the examples of section 1, the vectors of section 2, the programs of section
3), each with the instruction it stands for; and two of them on the CPU that has no such instruction: BEQL's word is
illegal on the IOP (30_encoding.md R185), RFE's is refused on the EE (30_encoding.md R186, R191). -/
def Obligations.SampleWordsDecode : Prop :=
  decode .ee 0x10000001#32 = .instr (.beq 0 0 1) ∧
  decode .iop 0x24010005#32 = .instr (.addiu 1 0 5) ∧
  decode .ee 0x50200002#32 = .instr (.beql 1 0 2) ∧
  decode .iop 0x50200002#32 = .illegal ∧
  decode .iop 0x00201009#32 = .instr (.jalr 2 1) ∧
  decode .ee 0x40815800#32 = .instr (.mtc0 1 11) ∧
  decode .ee 0xAC220010#32 = .instr (.sw 2 1 16) ∧
  decode .ee 0x42000018#32 = .instr .eret ∧
  decode .iop 0x42000010#32 = .instr .rfe ∧
  decode .ee 0x42000010#32 = .notAdmitted

/-- Words that reach an empty table entry stop the step as illegal, and the refused patterns stop it as refused,
each with its word and pc, before any other effect (30_encoding.md R185, R186). -/
def Obligations.EmptyAndRefusedWordsStop : Prop :=
  ∀ (s : State) (c : Cpu) (w : Word), s.turn = .cpu c → fetch s = .ok w →
    -- R185: entries empty on both CPUs, then those empty on the IOP alone
    ((fieldOp w).toNat ∈ [0x13, 0x1D, 0x30, 0x32, 0x34, 0x35, 0x38, 0x3A, 0x3B, 0x3C, 0x3D] ∨
      (fieldOp w = 0 ∧ (fieldFunct w).toNat ∈
        [0x01, 0x05, 0x0E, 0x15, 0x1C, 0x1D, 0x1E, 0x1F, 0x35, 0x37, 0x39, 0x3D]) ∨
      (fieldOp w = 1 ∧ (fieldRtBits w).toNat ∈
        [0x04, 0x05, 0x06, 0x07, 0x0D, 0x0F, 0x14, 0x15, 0x16, 0x17, 0x1A, 0x1B, 0x1C, 0x1D, 0x1E, 0x1F]) ∨
      (fieldOp w = 0x10 ∧ (fieldRsBits w).toNat ∉ [0x00, 0x04, 0x08, 0x10]) →
      step s = .fault (.illegalInstruction w s.pc)) ∧
    (c = .iop →
      (fieldOp w).toNat ∈ [0x11, 0x12, 0x14, 0x15, 0x16, 0x17, 0x18, 0x19, 0x1A, 0x1B, 0x1C, 0x1E, 0x1F, 0x27, 0x2C,
        0x2D, 0x2F, 0x31, 0x33, 0x36, 0x37, 0x39, 0x3E, 0x3F] ∨
      (fieldOp w = 0 ∧ (fieldFunct w).toNat ∈
        [0x0A, 0x0B, 0x0F, 0x14, 0x16, 0x17, 0x28, 0x29, 0x2C, 0x2D, 0x2E, 0x2F, 0x30, 0x31, 0x32, 0x33, 0x34, 0x36,
         0x38, 0x3A, 0x3B, 0x3C, 0x3E, 0x3F]) ∨
      (fieldOp w = 1 ∧ (fieldRtBits w).toNat ∈
        [0x02, 0x03, 0x08, 0x09, 0x0A, 0x0B, 0x0C, 0x0E, 0x12, 0x13, 0x18, 0x19]) ∨
      (fieldOp w = 0x10 ∧ fieldRsBits w = 0x08) →
      step s = .fault (.illegalInstruction w s.pc)) ∧
    -- R186
    ((fieldOp w).toNat ∈ [0x22, 0x26, 0x2A, 0x2E] → step s = .refused (.notAdmitted w s.pc)) ∧
    (c = .ee → (fieldOp w).toNat ∈ [0x11, 0x12, 0x31, 0x39, 0x36, 0x3E] →
      step s = .refused (.externalCoprocessor w s.pc)) ∧
    (c = .ee →
      (fieldOp w).toNat ∈ [0x18, 0x1A, 0x1B, 0x2C, 0x2D, 0x33] ∨
      (fieldOp w = 0 ∧ (fieldFunct w).toNat ∈ [0x28, 0x29, 0x2C, 0x2E, 0x30, 0x31, 0x32, 0x33, 0x34, 0x36]) ∨
      (fieldOp w = 1 ∧ (fieldRtBits w).toNat ∈ [0x08, 0x09, 0x0A, 0x0B, 0x0C, 0x0E, 0x18, 0x19]) ∨
      (fieldOp w = 0x1C ∧ ((fieldFunct w).toNat, (fieldSa w).toNat) ∉
        [(0x08, 0x00), (0x08, 0x01), (0x09, 0x0E), (0x09, 0x12), (0x09, 0x13), (0x29, 0x0E), (0x29, 0x12), (0x29, 0x13)]) ∨
      (fieldOp w = 0x10 ∧ fieldRsBits w = 0x08) ∨
      (fieldOp w = 0x10 ∧ fieldRsBits w = 0x10 ∧
        (fieldFunct w).toNat ∉ [0x01, 0x02, 0x06, 0x08, 0x18, 0x38, 0x39]) →
      step s = .refused (.notAdmitted w s.pc)) ∧
    (c = .iop → fieldOp w = 0x10 ∧ fieldRsBits w = 0x10 ∧ fieldFunct w ≠ 0x10 →
      step s = .refused (.notAdmitted w s.pc))

/-! ## One step -/

/-- Where the four bytes at pc, in the buffer its page names, decode to an instruction, the step is that
instruction's meaning followed by Advance, the EE's Count tick and the interrupt check (`finishStep`) and the
driver's move to the next position (`endTick`) (40_control_flow.md R200; 60_exceptions.md R583). That one agent's step
is one step of the block, with its position in State, is the model's choice of notes/assumptions/3.md. -/
def Obligations.StepRunsDecodedInstruction : Prop :=
  ∀ (s : State) (c : Cpu) (r : Region) (i : Instr), s.turn = .cpu c → s.pc.toNat % 4 = 0 →
    pageEntry c (translate c s.pc) = some r →
    decodeBytes c [s.mem.read (regionKey r (translate c s.pc)), s.mem.read (regionKey r (translate c s.pc) + 1),
      s.mem.read (regionKey r (translate c s.pc) + 2), s.mem.read (regionKey r (translate c s.pc) + 3)]
      = some (.instr i) →
    (∀ t, exec i s = .next t → step s = .next (endTick (finishStep t))) ∧
    (∀ f, exec i s = .fault f → step s = .fault f) ∧
    (∀ x, exec i s = .refused x → step s = .refused x)

/-- A fetch reads the four bytes at pc, lowest first, through the executing CPU's page table; it faults where pc is
not aligned and where no page is present, and never reaches a device (20_memory.md R113; 10_state.md R48). -/
def Obligations.FetchReadsThePageOrFaults : Prop :=
  ∀ (s : State) (c : Cpu), s.turn = .cpu c →
    (s.pc.toNat % 4 ≠ 0 → step s = .fault (.misalignedFetch s.pc)) ∧
    (s.pc.toNat % 4 = 0 → pageEntry c (translate c s.pc) = none → step s = .fault (.unmappedAccess s.pc 4 false)) ∧
    (s.pc.toNat % 4 = 0 → ∀ r, pageEntry c (translate c s.pc) = some r →
      ∃ w, fetch s = .ok w ∧
        ∀ k, k < 4 → w.extractLsb' (8 * k) 8 = s.mem.read (regionKey r (translate c s.pc) + k))

/-- `Advance()`: pc moves by 4 modulo 2^32; then a branch latched one step earlier is applied and its latch cleared;
then a branch requested in this step is latched and its request cleared (40_control_flow.md R203). -/
def Obligations.AdvanceAppliesThenLatches : Prop :=
  ∀ s : State, CtlWritten s
    { s.ctl with
      pc := if s.ctl.inDelaySlot then s.ctl.branchTarget else s.ctl.pc + 4
      inDelaySlot := s.ctl.branchPending
      branchPending := false } (advance s)

/-- A branch taken at A makes the next step run the instruction at A + 4, after which pc holds the target: for two
steps in which no interrupt is taken, the second of an instruction that leaves the control state alone
(40_control_flow.md R204). -/
def Obligations.DelaySlotRunsBeforeTheTarget : Prop :=
  ∀ (s s1 : State) (w : Word) (i : Instr) (target : Word),
    s.ctl.inDelaySlot = false → s.ctl.branchPending = false →
    fetch s = .ok w → decode s.cpu w = .instr i → exec i s = .next s1 → s1.ctl = s.ctl.requesting target →
    (countTick (advance s1)).interruptTaken = false →
    ∃ t, cpuStep s = .next t ∧ t.pc = s.pc + 4 ∧ t.ctl.inDelaySlot = true ∧ t.ctl.branchTarget = target ∧
      ∀ (w' : Word) (j : Instr) (t1 : State), fetch t = .ok w' → decode t.cpu w' = .instr j →
        exec j t = .next t1 → t1.ctl = t.ctl → (countTick (advance t1)).interruptTaken = false →
        ∃ u, cpuStep t = .next u ∧ u.pc = target ∧ u.ctl.inDelaySlot = false ∧ u.ctl.branchPending = false

/-! ## Arithmetic and logic -/

/-- ADDU, SUBU, ADDIU and LUI complete with a 32-bit result modulo 2^32, sign-extended on the EE; unused fields are
ignored (41_integer.md R271, R273, R281, R287). -/
def Obligations.WordAdditionsComplete : Prop :=
  ∀ (s : State) (c : Cpu) (rd rs rt : Reg) (imm : BitVec 16) (x y : BitVec 5),
    (decode c (encodeR 0 (bitsOfReg rs) (bitsOfReg rt) (bitsOfReg rd) x 0x21) = .instr (.addu rd rs rt) ∧
      CompletesWriting32 (.addu rd rs rt) s rd (s.r32 rs + s.r32 rt)) ∧
    (decode c (encodeR 0 (bitsOfReg rs) (bitsOfReg rt) (bitsOfReg rd) x 0x23) = .instr (.subu rd rs rt) ∧
      CompletesWriting32 (.subu rd rs rt) s rd (s.r32 rs - s.r32 rt)) ∧
    (decode c (encodeI 0x09 (bitsOfReg rs) (bitsOfReg rt) imm) = .instr (.addiu rt rs imm) ∧
      CompletesWriting32 (.addiu rt rs imm) s rt (s.r32 rs + imm.signExtend 32)) ∧
    (decode c (encodeI 0x0F y (bitsOfReg rt) imm) = .instr (.lui rt imm) ∧
      CompletesWriting32 (.lui rt imm) s rt (imm ++ 0x0000#16))

/-- ADD, SUB and ADDI complete with the exact sum or difference where it fits 32 signed bits; where it does not they
raise Overflow and write nothing (41_integer.md R262, R270, R272, R280, with `trap_on_overflow` at its default). -/
def Obligations.TrappingAdditionsCompleteOrTrap : Prop :=
  ∀ (s : State) (c : Cpu) (rd rs rt : Reg) (imm : BitVec 16) (x : BitVec 5),
    (decode c (encodeR 0 (bitsOfReg rs) (bitsOfReg rt) (bitsOfReg rd) x 0x20) = .instr (.add rd rs rt) ∧
      decode c (encodeR 0 (bitsOfReg rs) (bitsOfReg rt) (bitsOfReg rd) x 0x22) = .instr (.sub rd rs rt) ∧
      decode c (encodeI 0x08 (bitsOfReg rs) (bitsOfReg rt) imm) = .instr (.addi rt rs imm)) ∧
    (∀ v : Word, v.toInt = (s.r32 rs).toInt + (s.r32 rt).toInt → CompletesWriting32 (.add rd rs rt) s rd v) ∧
    ((s.r32 rs).toInt + (s.r32 rt).toInt < -(2 ^ 31) ∨ 2 ^ 31 ≤ (s.r32 rs).toInt + (s.r32 rt).toInt →
      exec (.add rd rs rt) s = .next (doException .overflow .sync s)) ∧
    (∀ v : Word, v.toInt = (s.r32 rs).toInt - (s.r32 rt).toInt → CompletesWriting32 (.sub rd rs rt) s rd v) ∧
    ((s.r32 rs).toInt - (s.r32 rt).toInt < -(2 ^ 31) ∨ 2 ^ 31 ≤ (s.r32 rs).toInt - (s.r32 rt).toInt →
      exec (.sub rd rs rt) s = .next (doException .overflow .sync s)) ∧
    (∀ v : Word, v.toInt = (s.r32 rs).toInt + imm.toInt → CompletesWriting32 (.addi rt rs imm) s rt v) ∧
    ((s.r32 rs).toInt + imm.toInt < -(2 ^ 31) ∨ 2 ^ 31 ≤ (s.r32 rs).toInt + imm.toInt →
      exec (.addi rt rs imm) s = .next (doException .overflow .sync s))

/-- AND, OR, XOR, NOR, SLT and SLTU complete with a W-bit result (41_integer.md R274 to R279). -/
def Obligations.LogicAndComparisonsComplete : Prop :=
  ∀ (s : State) (c : Cpu) (rd rs rt : Reg) (x : BitVec 5),
    (decode c (encodeR 0 (bitsOfReg rs) (bitsOfReg rt) (bitsOfReg rd) x 0x24) = .instr (.and rd rs rt) ∧
      CompletesWriting (.and rd rs rt) s rd (s.ee64 rs &&& s.ee64 rt) (s.iopReg rs &&& s.iopReg rt)) ∧
    (decode c (encodeR 0 (bitsOfReg rs) (bitsOfReg rt) (bitsOfReg rd) x 0x25) = .instr (.or rd rs rt) ∧
      CompletesWriting (.or rd rs rt) s rd (s.ee64 rs ||| s.ee64 rt) (s.iopReg rs ||| s.iopReg rt)) ∧
    (decode c (encodeR 0 (bitsOfReg rs) (bitsOfReg rt) (bitsOfReg rd) x 0x26) = .instr (.xor rd rs rt) ∧
      CompletesWriting (.xor rd rs rt) s rd (s.ee64 rs ^^^ s.ee64 rt) (s.iopReg rs ^^^ s.iopReg rt)) ∧
    (decode c (encodeR 0 (bitsOfReg rs) (bitsOfReg rt) (bitsOfReg rd) x 0x27) = .instr (.nor rd rs rt) ∧
      CompletesWriting (.nor rd rs rt) s rd (~~~(s.ee64 rs ||| s.ee64 rt)) (~~~(s.iopReg rs ||| s.iopReg rt))) ∧
    (decode c (encodeR 0 (bitsOfReg rs) (bitsOfReg rt) (bitsOfReg rd) x 0x2A) = .instr (.slt rd rs rt) ∧
      CompletesWriting (.slt rd rs rt) s rd (if s.signedW rs < s.signedW rt then 1 else 0)
        (if s.signedW rs < s.signedW rt then 1 else 0)) ∧
    (decode c (encodeR 0 (bitsOfReg rs) (bitsOfReg rt) (bitsOfReg rd) x 0x2B) = .instr (.sltu rd rs rt) ∧
      CompletesWriting (.sltu rd rs rt) s rd (if s.unsignedW rs < s.unsignedW rt then 1 else 0)
        (if s.unsignedW rs < s.unsignedW rt then 1 else 0))

/-- SLTI, SLTIU, ANDI, ORI and XORI complete with a W-bit result: the comparisons sign-extend the immediate, the
logical operations zero-extend it (41_integer.md R282 to R286). -/
def Obligations.ImmediateLogicCompletes : Prop :=
  ∀ (s : State) (c : Cpu) (rs rt : Reg) (imm : BitVec 16),
    (decode c (encodeI 0x0A (bitsOfReg rs) (bitsOfReg rt) imm) = .instr (.slti rt rs imm) ∧
      CompletesWriting (.slti rt rs imm) s rt (if s.signedW rs < imm.toInt then 1 else 0)
        (if s.signedW rs < imm.toInt then 1 else 0)) ∧
    (decode c (encodeI 0x0B (bitsOfReg rs) (bitsOfReg rt) imm) = .instr (.sltiu rt rs imm) ∧
      CompletesWriting (.sltiu rt rs imm) s rt (if (s.ee64 rs).toNat < (imm.signExtend 64).toNat then 1 else 0)
        (if (s.iopReg rs).toNat < (imm.signExtend 32).toNat then 1 else 0)) ∧
    (decode c (encodeI 0x0C (bitsOfReg rs) (bitsOfReg rt) imm) = .instr (.andi rt rs imm) ∧
      CompletesWriting (.andi rt rs imm) s rt (s.ee64 rs &&& imm.setWidth 64) (s.iopReg rs &&& imm.setWidth 32)) ∧
    (decode c (encodeI 0x0D (bitsOfReg rs) (bitsOfReg rt) imm) = .instr (.ori rt rs imm) ∧
      CompletesWriting (.ori rt rs imm) s rt (s.ee64 rs ||| imm.setWidth 64) (s.iopReg rs ||| imm.setWidth 32)) ∧
    (decode c (encodeI 0x0E (bitsOfReg rs) (bitsOfReg rt) imm) = .instr (.xori rt rs imm) ∧
      CompletesWriting (.xori rt rs imm) s rt (s.ee64 rs ^^^ imm.setWidth 64) (s.iopReg rs ^^^ imm.setWidth 32))

/-- SLL, SRL, SRA, SLLV, SRLV and SRAV complete with the shifted 32-bit value; a variable amount is bits 4:0 of rs
(41_integer.md R288 to R293). -/
def Obligations.WordShiftsComplete : Prop :=
  ∀ (s : State) (c : Cpu) (rd rs rt : Reg) (sa x : BitVec 5),
    (decode c (encodeR 0 x (bitsOfReg rt) (bitsOfReg rd) sa 0x00) = .instr (.sll rd rt sa) ∧
      CompletesWriting32 (.sll rd rt sa) s rd (s.r32 rt <<< sa.toNat)) ∧
    (decode c (encodeR 0 x (bitsOfReg rt) (bitsOfReg rd) sa 0x02) = .instr (.srl rd rt sa) ∧
      CompletesWriting32 (.srl rd rt sa) s rd (s.r32 rt >>> sa.toNat)) ∧
    (decode c (encodeR 0 x (bitsOfReg rt) (bitsOfReg rd) sa 0x03) = .instr (.sra rd rt sa) ∧
      CompletesWriting32 (.sra rd rt sa) s rd (((s.r32 rt).signExtend 64 >>> sa.toNat).setWidth 32)) ∧
    (decode c (encodeR 0 (bitsOfReg rs) (bitsOfReg rt) (bitsOfReg rd) x 0x04) = .instr (.sllv rd rt rs) ∧
      CompletesWriting32 (.sllv rd rt rs) s rd (s.r32 rt <<< ((s.r32 rs).toNat % 32))) ∧
    (decode c (encodeR 0 (bitsOfReg rs) (bitsOfReg rt) (bitsOfReg rd) x 0x06) = .instr (.srlv rd rt rs) ∧
      CompletesWriting32 (.srlv rd rt rs) s rd (s.r32 rt >>> ((s.r32 rs).toNat % 32))) ∧
    (decode c (encodeR 0 (bitsOfReg rs) (bitsOfReg rt) (bitsOfReg rd) x 0x07) = .instr (.srav rd rt rs) ∧
      CompletesWriting32 (.srav rd rt rs) s rd
        (((s.r32 rt).signExtend 64 >>> ((s.r32 rs).toNat % 32)).setWidth 32))

/-! ## Multiply, divide, HI and LO -/

/-- MULT and MULTU complete: HI and LO take the halves of the exact product `p`, sign-extended on the EE, which also
writes the low half to rd; the IOP ignores rd (41_integer.md R263, R294, R295). -/
def Obligations.MultipliesComplete : Prop :=
  ∀ (s : State) (c : Cpu) (rd rs rt : Reg) (x : BitVec 5),
    (decode c (encodeR 0 (bitsOfReg rs) (bitsOfReg rt) (bitsOfReg rd) x 0x18) = .instr (.mult rd rs rt) ∧
      decode c (encodeR 0 (bitsOfReg rs) (bitsOfReg rt) (bitsOfReg rd) x 0x19) = .instr (.multu rd rs rt)) ∧
    (∃ p : Dword, p.toInt = (s.r32 rs).toInt * (s.r32 rt).toInt ∧
      ∃ t, exec (.mult rd rs rt) s = .next t ∧
        match s.cpu with
        | .ee => Reg32Written (s.withHiLo (p.extractLsb' 32 32) (p.extractLsb' 0 32)) rd (p.extractLsb' 0 32) t
        | .iop => t = s.withHiLo (p.extractLsb' 32 32) (p.extractLsb' 0 32)) ∧
    (∃ p : Dword, p.toNat = (s.r32 rs).toNat * (s.r32 rt).toNat ∧
      ∃ t, exec (.multu rd rs rt) s = .next t ∧
        match s.cpu with
        | .ee => Reg32Written (s.withHiLo (p.extractLsb' 32 32) (p.extractLsb' 0 32)) rd (p.extractLsb' 0 32) t
        | .iop => t = s.withHiLo (p.extractLsb' 32 32) (p.extractLsb' 0 32))

/-- DIV and DIVU complete and change only HI and LO: LO takes the quotient rounded toward zero and HI the remainder,
sign-extended on the EE, with the corner results of the table `div_corner` (41_integer.md R264, R296, R297). -/
def Obligations.DividesComplete : Prop :=
  ∀ (s : State) (c : Cpu) (rs rt : Reg) (x y : BitVec 5),
    (decode c (encodeR 0 (bitsOfReg rs) (bitsOfReg rt) x y 0x1A) = .instr (.div rs rt) ∧
      decode c (encodeR 0 (bitsOfReg rs) (bitsOfReg rt) x y 0x1B) = .instr (.divu rs rt)) ∧
    (∃ q r : Word, exec (.div rs rt) s = .next (s.withHiLo r q) ∧
      (s.r32 rt = 0 → r = s.r32 rs ∧ q = if (s.r32 rs).toInt < 0 then 0x00000001#32 else 0xFFFFFFFF#32) ∧
      (s.r32 rs = 0x80000000#32 ∧ s.r32 rt = 0xFFFFFFFF#32 → q = 0x80000000#32 ∧ r = 0x00000000#32) ∧
      (s.r32 rt ≠ 0 ∧ ¬ (s.r32 rs = 0x80000000#32 ∧ s.r32 rt = 0xFFFFFFFF#32) →
        q.toInt = (s.r32 rs).toInt.tdiv (s.r32 rt).toInt ∧
        r.toInt = (s.r32 rs).toInt - (s.r32 rs).toInt.tdiv (s.r32 rt).toInt * (s.r32 rt).toInt)) ∧
    (∃ q r : Word, exec (.divu rs rt) s = .next (s.withHiLo r q) ∧
      (s.r32 rt = 0 → q = 0xFFFFFFFF#32 ∧ r = s.r32 rs) ∧
      (s.r32 rt ≠ 0 → q.toNat = (s.r32 rs).toNat / (s.r32 rt).toNat ∧
        r.toNat = (s.r32 rs).toNat - (s.r32 rs).toNat / (s.r32 rt).toNat * (s.r32 rt).toNat))

/-- MFHI, MFLO, MTHI and MTLO complete; on the EE they move bits 63:0 and leave bits 127:64 of their destination
alone (41_integer.md R298 to R301; 10_state.md R45). -/
def Obligations.HiLoMovesComplete : Prop :=
  ∀ (s : State) (c : Cpu) (r : Reg) (x y z : BitVec 5),
    (decode c (encodeR 0 x y (bitsOfReg r) z 0x10) = .instr (.mfhi r) ∧
      CompletesWriting (.mfhi r) s r (s.ee.hi.setWidth 64) s.iop.hi) ∧
    (decode c (encodeR 0 x y (bitsOfReg r) z 0x12) = .instr (.mflo r) ∧
      CompletesWriting (.mflo r) s r (s.ee.lo.setWidth 64) s.iop.lo) ∧
    (decode c (encodeR 0 (bitsOfReg r) x y z 0x11) = .instr (.mthi r) ∧
      exec (.mthi r) s = .next (match s.cpu with
        | .ee => { s with ee := { s.ee with hi := s.ee.hi.extractLsb' 64 64 ++ s.ee64 r } }
        | .iop => { s with iop := { s.iop with hi := s.iopReg r } })) ∧
    (decode c (encodeR 0 (bitsOfReg r) x y z 0x13) = .instr (.mtlo r) ∧
      exec (.mtlo r) s = .next (match s.cpu with
        | .ee => { s with ee := { s.ee with lo := s.ee.lo.extractLsb' 64 64 ++ s.ee64 r } }
        | .iop => { s with iop := { s.iop with lo := s.iopReg r } }))

/-! ## EE doubleword, conditional-move and multimedia instructions -/

/-- DADDU, DSUBU and DADDIU complete on the EE with the 64-bit result modulo 2^64, and MOVZ and MOVN move bits 63:0
where their test of rt holds and change nothing where it does not; on the IOP each is illegal, whatever rt holds
(41_integer.md R310 to R312, R322, R323). -/
def Obligations.DoublewordAdditionsAndMovesComplete : Prop :=
  ∀ (s : State) (rd rs rt : Reg) (imm : BitVec 16) (x : BitVec 5),
    (decode .ee (encodeR 0 (bitsOfReg rs) (bitsOfReg rt) (bitsOfReg rd) x 0x2D) = .instr (.daddu rd rs rt) ∧
      CompletesWritingEe64 (.daddu rd rs rt) s rd (s.ee64 rs + s.ee64 rt)) ∧
    (decode .ee (encodeR 0 (bitsOfReg rs) (bitsOfReg rt) (bitsOfReg rd) x 0x2F) = .instr (.dsubu rd rs rt) ∧
      CompletesWritingEe64 (.dsubu rd rs rt) s rd (s.ee64 rs - s.ee64 rt)) ∧
    (decode .ee (encodeI 0x19 (bitsOfReg rs) (bitsOfReg rt) imm) = .instr (.daddiu rt rs imm) ∧
      CompletesWritingEe64 (.daddiu rt rs imm) s rt (s.ee64 rs + imm.signExtend 64)) ∧
    (decode .ee (encodeR 0 (bitsOfReg rs) (bitsOfReg rt) (bitsOfReg rd) x 0x0A) = .instr (.movz rd rs rt) ∧
      (s.ee64 rt = 0 → CompletesWritingEe64 (.movz rd rs rt) s rd (s.ee64 rs)) ∧
      (s.cpu = .ee → s.ee64 rt ≠ 0 → exec (.movz rd rs rt) s = .next s) ∧
      (s.cpu = .iop → exec (.movz rd rs rt) s = .fault (.illegalInstruction (encode (.movz rd rs rt)) s.pc))) ∧
    (decode .ee (encodeR 0 (bitsOfReg rs) (bitsOfReg rt) (bitsOfReg rd) x 0x0B) = .instr (.movn rd rs rt) ∧
      (s.ee64 rt ≠ 0 → CompletesWritingEe64 (.movn rd rs rt) s rd (s.ee64 rs)) ∧
      (s.cpu = .ee → s.ee64 rt = 0 → exec (.movn rd rs rt) s = .next s) ∧
      (s.cpu = .iop → exec (.movn rd rs rt) s = .fault (.illegalInstruction (encode (.movn rd rs rt)) s.pc)))

/-- The nine doubleword shifts complete on the EE: by sa, by sa + 32, or by bits 5:0 of rs; on the IOP each is
illegal (41_integer.md R313 to R321). -/
def Obligations.DoublewordShiftsComplete : Prop :=
  ∀ (s : State) (rd rs rt : Reg) (sa x : BitVec 5),
    (decode .ee (encodeR 0 x (bitsOfReg rt) (bitsOfReg rd) sa 0x38) = .instr (.dsll rd rt sa) ∧
      CompletesWritingEe64 (.dsll rd rt sa) s rd (s.ee64 rt <<< sa.toNat)) ∧
    (decode .ee (encodeR 0 x (bitsOfReg rt) (bitsOfReg rd) sa 0x3A) = .instr (.dsrl rd rt sa) ∧
      CompletesWritingEe64 (.dsrl rd rt sa) s rd (s.ee64 rt >>> sa.toNat)) ∧
    (decode .ee (encodeR 0 x (bitsOfReg rt) (bitsOfReg rd) sa 0x3B) = .instr (.dsra rd rt sa) ∧
      CompletesWritingEe64 (.dsra rd rt sa) s rd (((s.ee64 rt).signExtend 128 >>> sa.toNat).setWidth 64)) ∧
    (decode .ee (encodeR 0 x (bitsOfReg rt) (bitsOfReg rd) sa 0x3C) = .instr (.dsll32 rd rt sa) ∧
      CompletesWritingEe64 (.dsll32 rd rt sa) s rd (s.ee64 rt <<< (sa.toNat + 32))) ∧
    (decode .ee (encodeR 0 x (bitsOfReg rt) (bitsOfReg rd) sa 0x3E) = .instr (.dsrl32 rd rt sa) ∧
      CompletesWritingEe64 (.dsrl32 rd rt sa) s rd (s.ee64 rt >>> (sa.toNat + 32))) ∧
    (decode .ee (encodeR 0 x (bitsOfReg rt) (bitsOfReg rd) sa 0x3F) = .instr (.dsra32 rd rt sa) ∧
      CompletesWritingEe64 (.dsra32 rd rt sa) s rd (((s.ee64 rt).signExtend 128 >>> (sa.toNat + 32)).setWidth 64)) ∧
    (decode .ee (encodeR 0 (bitsOfReg rs) (bitsOfReg rt) (bitsOfReg rd) x 0x14) = .instr (.dsllv rd rt rs) ∧
      CompletesWritingEe64 (.dsllv rd rt rs) s rd (s.ee64 rt <<< ((s.ee64 rs).toNat % 64))) ∧
    (decode .ee (encodeR 0 (bitsOfReg rs) (bitsOfReg rt) (bitsOfReg rd) x 0x16) = .instr (.dsrlv rd rt rs) ∧
      CompletesWritingEe64 (.dsrlv rd rt rs) s rd (s.ee64 rt >>> ((s.ee64 rs).toNat % 64))) ∧
    (decode .ee (encodeR 0 (bitsOfReg rs) (bitsOfReg rt) (bitsOfReg rd) x 0x17) = .instr (.dsrav rd rt rs) ∧
      CompletesWritingEe64 (.dsrav rd rt rs) s rd
        (((s.ee64 rt).signExtend 128 >>> ((s.ee64 rs).toNat % 64)).setWidth 64))

/-- The eight multimedia instructions complete on the EE and write all 128 bits of rd: PADDW and PSUBW word lane by
word lane, the logical ones bit by bit, the copies doubleword by doubleword; on the IOP each is illegal
(41_integer.md R330 to R338). -/
def Obligations.MultimediaCompletes : Prop :=
  ∀ (s : State) (rd rs rt : Reg),
    (decode .ee (encodeR 0x1C (bitsOfReg rs) (bitsOfReg rt) (bitsOfReg rd) 0x00 0x08) = .instr (.paddw rd rs rt) ∧
      ∃ v : Quad, CompletesWritingEe128 (.paddw rd rs rt) s rd v ∧ ∀ i, i < 4 →
        v.extractLsb' (32 * i) 32 = (s.eeReg rs).extractLsb' (32 * i) 32 + (s.eeReg rt).extractLsb' (32 * i) 32) ∧
    (decode .ee (encodeR 0x1C (bitsOfReg rs) (bitsOfReg rt) (bitsOfReg rd) 0x01 0x08) = .instr (.psubw rd rs rt) ∧
      ∃ v : Quad, CompletesWritingEe128 (.psubw rd rs rt) s rd v ∧ ∀ i, i < 4 →
        v.extractLsb' (32 * i) 32 = (s.eeReg rs).extractLsb' (32 * i) 32 - (s.eeReg rt).extractLsb' (32 * i) 32) ∧
    (decode .ee (encodeR 0x1C (bitsOfReg rs) (bitsOfReg rt) (bitsOfReg rd) 0x12 0x09) = .instr (.pand rd rs rt) ∧
      CompletesWritingEe128 (.pand rd rs rt) s rd (s.eeReg rs &&& s.eeReg rt)) ∧
    (decode .ee (encodeR 0x1C (bitsOfReg rs) (bitsOfReg rt) (bitsOfReg rd) 0x12 0x29) = .instr (.por rd rs rt) ∧
      CompletesWritingEe128 (.por rd rs rt) s rd (s.eeReg rs ||| s.eeReg rt)) ∧
    (decode .ee (encodeR 0x1C (bitsOfReg rs) (bitsOfReg rt) (bitsOfReg rd) 0x13 0x09) = .instr (.pxor rd rs rt) ∧
      CompletesWritingEe128 (.pxor rd rs rt) s rd (s.eeReg rs ^^^ s.eeReg rt)) ∧
    (decode .ee (encodeR 0x1C (bitsOfReg rs) (bitsOfReg rt) (bitsOfReg rd) 0x13 0x29) = .instr (.pnor rd rs rt) ∧
      CompletesWritingEe128 (.pnor rd rs rt) s rd (~~~(s.eeReg rs ||| s.eeReg rt))) ∧
    (decode .ee (encodeR 0x1C (bitsOfReg rs) (bitsOfReg rt) (bitsOfReg rd) 0x0E 0x09) = .instr (.pcpyld rd rs rt) ∧
      ∃ v : Quad, CompletesWritingEe128 (.pcpyld rd rs rt) s rd v ∧
        v.extractLsb' 0 64 = (s.eeReg rt).extractLsb' 0 64 ∧ v.extractLsb' 64 64 = (s.eeReg rs).extractLsb' 0 64) ∧
    (decode .ee (encodeR 0x1C (bitsOfReg rs) (bitsOfReg rt) (bitsOfReg rd) 0x0E 0x29) = .instr (.pcpyud rd rs rt) ∧
      ∃ v : Quad, CompletesWritingEe128 (.pcpyud rd rs rt) s rd v ∧
        v.extractLsb' 0 64 = (s.eeReg rs).extractLsb' 64 64 ∧ v.extractLsb' 64 64 = (s.eeReg rt).extractLsb' 64 64)

/-! ## Branches and jumps -/

/-- BEQ, BNE, BLEZ, BGTZ, BLTZ and BGEZ: in a delay slot they fault; outside one they complete, requesting the target
where the condition on the W-bit registers holds and changing nothing where it does not
(40_control_flow.md R220 to R225). -/
def Obligations.ConditionalBranchesComplete : Prop :=
  ∀ (s : State) (c : Cpu) (rs rt : Reg) (imm : BitVec 16) (x : BitVec 5),
    (decode c (encodeI 0x04 (bitsOfReg rs) (bitsOfReg rt) imm) = .instr (.beq rs rt imm) ∧
      BranchOutcome (.beq rs rt imm) s none
        (if s.unsignedW rs = s.unsignedW rt then s.ctl.requesting (s.pc + 4 + (imm.signExtend 32 <<< 2)) else s.ctl)) ∧
    (decode c (encodeI 0x05 (bitsOfReg rs) (bitsOfReg rt) imm) = .instr (.bne rs rt imm) ∧
      BranchOutcome (.bne rs rt imm) s none
        (if s.unsignedW rs ≠ s.unsignedW rt then s.ctl.requesting (s.pc + 4 + (imm.signExtend 32 <<< 2)) else s.ctl)) ∧
    (decode c (encodeI 0x06 (bitsOfReg rs) x imm) = .instr (.blez rs imm) ∧
      BranchOutcome (.blez rs imm) s none
        (if s.signedW rs ≤ 0 then s.ctl.requesting (s.pc + 4 + (imm.signExtend 32 <<< 2)) else s.ctl)) ∧
    (decode c (encodeI 0x07 (bitsOfReg rs) x imm) = .instr (.bgtz rs imm) ∧
      BranchOutcome (.bgtz rs imm) s none
        (if 0 < s.signedW rs then s.ctl.requesting (s.pc + 4 + (imm.signExtend 32 <<< 2)) else s.ctl)) ∧
    (decode c (encodeI 0x01 (bitsOfReg rs) 0x00 imm) = .instr (.bltz rs imm) ∧
      BranchOutcome (.bltz rs imm) s none
        (if s.signedW rs < 0 then s.ctl.requesting (s.pc + 4 + (imm.signExtend 32 <<< 2)) else s.ctl)) ∧
    (decode c (encodeI 0x01 (bitsOfReg rs) 0x01 imm) = .instr (.bgez rs imm) ∧
      BranchOutcome (.bgez rs imm) s none
        (if 0 ≤ s.signedW rs then s.ctl.requesting (s.pc + 4 + (imm.signExtend 32 <<< 2)) else s.ctl))

/-- The six likely branches, EE only: as the ordinary ones where taken; where not taken, pc moves past the delay slot
(40_control_flow.md R209, R226 to R231). -/
def Obligations.LikelyBranchesComplete : Prop :=
  ∀ (s : State) (rs rt : Reg) (imm : BitVec 16) (x : BitVec 5),
    (decode .ee (encodeI 0x14 (bitsOfReg rs) (bitsOfReg rt) imm) = .instr (.beql rs rt imm) ∧
      EeBranchOutcome (.beql rs rt imm) s none
        (if s.unsignedW rs = s.unsignedW rt then s.ctl.requesting (s.pc + 4 + (imm.signExtend 32 <<< 2))
          else s.ctl.skipping)) ∧
    (decode .ee (encodeI 0x15 (bitsOfReg rs) (bitsOfReg rt) imm) = .instr (.bnel rs rt imm) ∧
      EeBranchOutcome (.bnel rs rt imm) s none
        (if s.unsignedW rs ≠ s.unsignedW rt then s.ctl.requesting (s.pc + 4 + (imm.signExtend 32 <<< 2))
          else s.ctl.skipping)) ∧
    (decode .ee (encodeI 0x16 (bitsOfReg rs) x imm) = .instr (.blezl rs imm) ∧
      EeBranchOutcome (.blezl rs imm) s none
        (if s.signedW rs ≤ 0 then s.ctl.requesting (s.pc + 4 + (imm.signExtend 32 <<< 2)) else s.ctl.skipping)) ∧
    (decode .ee (encodeI 0x17 (bitsOfReg rs) x imm) = .instr (.bgtzl rs imm) ∧
      EeBranchOutcome (.bgtzl rs imm) s none
        (if 0 < s.signedW rs then s.ctl.requesting (s.pc + 4 + (imm.signExtend 32 <<< 2)) else s.ctl.skipping)) ∧
    (decode .ee (encodeI 0x01 (bitsOfReg rs) 0x02 imm) = .instr (.bltzl rs imm) ∧
      EeBranchOutcome (.bltzl rs imm) s none
        (if s.signedW rs < 0 then s.ctl.requesting (s.pc + 4 + (imm.signExtend 32 <<< 2)) else s.ctl.skipping)) ∧
    (decode .ee (encodeI 0x01 (bitsOfReg rs) 0x03 imm) = .instr (.bgezl rs imm) ∧
      EeBranchOutcome (.bgezl rs imm) s none
        (if 0 ≤ s.signedW rs then s.ctl.requesting (s.pc + 4 + (imm.signExtend 32 <<< 2)) else s.ctl.skipping))

/-- BLTZAL, BGEZAL and, on the EE, BLTZALL and BGEZALL write pc + 8 to r31 whether or not they are taken, and read
their condition before (40_control_flow.md R211, R232 to R235). -/
def Obligations.LinkingBranchesComplete : Prop :=
  ∀ (s : State) (c : Cpu) (rs : Reg) (imm : BitVec 16),
    (decode c (encodeI 0x01 (bitsOfReg rs) 0x10 imm) = .instr (.bltzal rs imm) ∧
      BranchOutcome (.bltzal rs imm) s (some 31)
        (if s.signedW rs < 0 then s.ctl.requesting (s.pc + 4 + (imm.signExtend 32 <<< 2)) else s.ctl)) ∧
    (decode c (encodeI 0x01 (bitsOfReg rs) 0x11 imm) = .instr (.bgezal rs imm) ∧
      BranchOutcome (.bgezal rs imm) s (some 31)
        (if 0 ≤ s.signedW rs then s.ctl.requesting (s.pc + 4 + (imm.signExtend 32 <<< 2)) else s.ctl)) ∧
    (decode .ee (encodeI 0x01 (bitsOfReg rs) 0x12 imm) = .instr (.bltzall rs imm) ∧
      EeBranchOutcome (.bltzall rs imm) s (some 31)
        (if s.signedW rs < 0 then s.ctl.requesting (s.pc + 4 + (imm.signExtend 32 <<< 2)) else s.ctl.skipping)) ∧
    (decode .ee (encodeI 0x01 (bitsOfReg rs) 0x13 imm) = .instr (.bgezall rs imm) ∧
      EeBranchOutcome (.bgezall rs imm) s (some 31)
        (if 0 ≤ s.signedW rs then s.ctl.requesting (s.pc + 4 + (imm.signExtend 32 <<< 2)) else s.ctl.skipping))

/-- J, JAL, JR and JALR: in a delay slot they fault; outside one they complete, requesting their target, JAL and JALR
with the link written after the target is read (40_control_flow.md R236 to R239). -/
def Obligations.JumpsComplete : Prop :=
  ∀ (s : State) (c : Cpu) (rd rs : Reg) (target : BitVec 26) (x y z : BitVec 5),
    (decode c (encodeJ 0x02 target) = .instr (.j target) ∧
      BranchOutcome (.j target) s none
        (s.ctl.requesting ((s.pc + 4).extractLsb' 28 4 ++ target ++ 0b00#2))) ∧
    (decode c (encodeJ 0x03 target) = .instr (.jal target) ∧
      BranchOutcome (.jal target) s (some 31)
        (s.ctl.requesting ((s.pc + 4).extractLsb' 28 4 ++ target ++ 0b00#2))) ∧
    (decode c (encodeR 0 (bitsOfReg rs) x y z 0x08) = .instr (.jr rs) ∧
      BranchOutcome (.jr rs) s none (s.ctl.requesting (s.r32 rs))) ∧
    (decode c (encodeR 0 (bitsOfReg rs) x (bitsOfReg rd) z 0x09) = .instr (.jalr rd rs) ∧
      BranchOutcome (.jalr rd rs) s (some rd) (s.ctl.requesting (s.r32 rs)))

/-! ## Memory primitives, loads and stores -/

/-- `MemRead`: a misaligned 2, 4 or 8-byte access faults; a mapped one gives the bytes of its buffer, lowest first,
and changes nothing; an unmapped one goes to the MMIO dispatcher (20_memory.md R110). -/
def Obligations.MemReadFollowsItsRule : Prop :=
  ∀ (s : State) (va : Word) (n : Nat),
    ((n = 2 ∨ n = 4 ∨ n = 8) → va.toNat % n ≠ 0 → memRead s va n = .fault (.misaligned va n)) ∧
    (¬ ((n = 2 ∨ n = 4 ∨ n = 8) ∧ va.toNat % n ≠ 0) →
      (∀ r, pageEntry s.cpu (translate s.cpu va) = some r → n ≤ 16 →
        ∃ v, memRead s va n = .value v s ∧ v.toNat < 2 ^ (8 * n) ∧
          ∀ k, k < n → v.extractLsb' (8 * k) 8 =
            s.mem.read (bufBase r.buf + (translate s.cpu va &&& r.mask).toNat + k)) ∧
      (pageEntry s.cpu (translate s.cpu va) = none →
        memRead s va n = mmioRead s.cpu s (translate s.cpu va) n))

/-- `MemWrite`: an IOP store under Status.IsC is discarded; a misaligned one faults; a store to a writable page writes
its bytes and nothing else; a store to the ROM faults; an unmapped one goes to the MMIO dispatcher (20_memory.md R111,
with `rom_write` and `iop_isc_discards_stores` at their defaults). -/
def Obligations.MemWriteFollowsItsRule : Prop :=
  ∀ (s : State) (va : Word) (n : Nat) (v : Quad),
    (s.cpu = .iop → s.iop.ctl.status.getLsbD 16 = true → memWrite s va n v = .next s) ∧
    (¬ (s.cpu = .iop ∧ s.iop.ctl.status.getLsbD 16 = true) →
      ((n = 2 ∨ n = 4 ∨ n = 8) → va.toNat % n ≠ 0 → memWrite s va n v = .fault (.misaligned va n)) ∧
      (¬ ((n = 2 ∨ n = 4 ∨ n = 8) ∧ va.toNat % n ≠ 0) →
        (∀ r, pageEntry s.cpu (translate s.cpu va) = some r → r.writable = true →
          ∃ t, memWrite s va n v = .next t ∧
            MemWritten s (bufBase r.buf + (translate s.cpu va &&& r.mask).toNat) n v t) ∧
        (∀ r, pageEntry s.cpu (translate s.cpu va) = some r → r.writable = false →
          memWrite s va n v = .fault (.romWrite (translate s.cpu va))) ∧
        (pageEntry s.cpu (translate s.cpu va) = none →
          memWrite s va n v = mmioWrite s.cpu s (translate s.cpu va) n v)))

/-- Each load reads its size at its effective address, writes what it read, extended as its rule says, and faults
where the read faults (42_load_store.md R354 to R361). -/
def Obligations.LoadsWriteWhatTheyRead : Prop :=
  ∀ (s : State) (c : Cpu) (rt base : Reg) (off : BitVec 16),
    (decode c (encodeI 0x20 (bitsOfReg base) (bitsOfReg rt) off) = .instr (.lb rt base off) ∧
      LoadOutcome (.lb rt base off) s (s.effAddr base off) 1 fun v u t =>
        RegWritten u rt ((v.setWidth 8).signExtend 64) ((v.setWidth 8).signExtend 32) t) ∧
    (decode c (encodeI 0x24 (bitsOfReg base) (bitsOfReg rt) off) = .instr (.lbu rt base off) ∧
      LoadOutcome (.lbu rt base off) s (s.effAddr base off) 1 fun v u t =>
        RegWritten u rt ((v.setWidth 8).setWidth 64) ((v.setWidth 8).setWidth 32) t) ∧
    (decode c (encodeI 0x21 (bitsOfReg base) (bitsOfReg rt) off) = .instr (.lh rt base off) ∧
      LoadOutcome (.lh rt base off) s (s.effAddr base off) 2 fun v u t =>
        RegWritten u rt ((v.setWidth 16).signExtend 64) ((v.setWidth 16).signExtend 32) t) ∧
    (decode c (encodeI 0x25 (bitsOfReg base) (bitsOfReg rt) off) = .instr (.lhu rt base off) ∧
      LoadOutcome (.lhu rt base off) s (s.effAddr base off) 2 fun v u t =>
        RegWritten u rt ((v.setWidth 16).setWidth 64) ((v.setWidth 16).setWidth 32) t) ∧
    (decode c (encodeI 0x23 (bitsOfReg base) (bitsOfReg rt) off) = .instr (.lw rt base off) ∧
      LoadOutcome (.lw rt base off) s (s.effAddr base off) 4 fun v u t => Reg32Written u rt (v.setWidth 32) t) ∧
    (decode .ee (encodeI 0x27 (bitsOfReg base) (bitsOfReg rt) off) = .instr (.lwu rt base off) ∧
      EeLoadOutcome (.lwu rt base off) s (s.effAddr base off) 4 fun v u t =>
        EeRegWritten u rt ((u.eeReg rt).extractLsb' 64 64 ++ (v.setWidth 32).setWidth 64) t) ∧
    (decode .ee (encodeI 0x1E (bitsOfReg base) (bitsOfReg rt) off) = .instr (.lq rt base off) ∧
      EeLoadOutcome (.lq rt base off) s (s.effAddr base off &&& 0xFFFFFFF0#32) 16 fun v u t =>
        EeRegWritten u rt v t) ∧
    (decode .ee (encodeI 0x37 (bitsOfReg base) (bitsOfReg rt) off) = .instr (.ld rt base off) ∧
      EeLoadOutcome (.ld rt base off) s (s.effAddr base off) 8 fun v u t =>
        EeRegWritten u rt ((u.eeReg rt).extractLsb' 64 64 ++ v.setWidth 64) t)

/-- Each store is `MemWrite` of the low bytes of rt at its effective address (42_load_store.md R362 to R366). -/
def Obligations.StoresWriteTheLowBytes : Prop :=
  ∀ (s : State) (c : Cpu) (rt base : Reg) (off : BitVec 16),
    (decode c (encodeI 0x28 (bitsOfReg base) (bitsOfReg rt) off) = .instr (.sb rt base off) ∧
      exec (.sb rt base off) s = memWrite s (s.effAddr base off) 1 (((s.r32 rt).setWidth 8).setWidth 128)) ∧
    (decode c (encodeI 0x29 (bitsOfReg base) (bitsOfReg rt) off) = .instr (.sh rt base off) ∧
      exec (.sh rt base off) s = memWrite s (s.effAddr base off) 2 (((s.r32 rt).setWidth 16).setWidth 128)) ∧
    (decode c (encodeI 0x2B (bitsOfReg base) (bitsOfReg rt) off) = .instr (.sw rt base off) ∧
      exec (.sw rt base off) s = memWrite s (s.effAddr base off) 4 ((s.r32 rt).setWidth 128)) ∧
    (decode .ee (encodeI 0x1F (bitsOfReg base) (bitsOfReg rt) off) = .instr (.sq rt base off) ∧
      (s.cpu = .ee → exec (.sq rt base off) s =
        memWrite s (s.effAddr base off &&& 0xFFFFFFF0#32) 16 (s.eeReg rt)) ∧
      (s.cpu = .iop → exec (.sq rt base off) s = .fault (.illegalInstruction (encode (.sq rt base off)) s.pc))) ∧
    (decode .ee (encodeI 0x3F (bitsOfReg base) (bitsOfReg rt) off) = .instr (.sd rt base off) ∧
      (s.cpu = .ee → exec (.sd rt base off) s = memWrite s (s.effAddr base off) 8 ((s.ee64 rt).setWidth 128)) ∧
      (s.cpu = .iop → exec (.sd rt base off) s = .fault (.illegalInstruction (encode (.sd rt base off)) s.pc)))

/-- The effective address of a load or store is the W-bit base plus the sign-extended offset, truncated to 32 bits
(42_load_store.md R350). -/
def Obligations.EffectiveAddressIsBasePlusOffset : Prop :=
  ∀ (s : State) (base : Reg) (off : BitVec 16),
    ((s.effAddr base off).toNat : Int) = ((s.unsignedW base : Int) + off.toInt) % 2 ^ 32 ∧
    (s.quadAddr base off).toNat = (s.effAddr base off).toNat / 16 * 16

/-- The loads complete from every mapped, aligned address with the bytes found there (42_load_store.md sections 1
and 2; 20_memory.md R110, R130). -/
def Obligations.LoadsFromMemoryComplete : Prop :=
  ∀ (s : State) (rt base : Reg) (off : BitVec 16) (r : Region),
    (pageEntry s.cpu (translate s.cpu (s.effAddr base off)) = some r →
      let a := regionKey r (translate s.cpu (s.effAddr base off))
      let m := s.mem.read
      let va := (s.effAddr base off).toNat
      CompletesWriting (.lb rt base off) s rt ((m a).signExtend 64) ((m a).signExtend 32) ∧
      CompletesWriting (.lbu rt base off) s rt ((m a).setWidth 64) ((m a).setWidth 32) ∧
      (va % 2 = 0 →
        CompletesWriting (.lh rt base off) s rt ((m (a + 1) ++ m a).signExtend 64) ((m (a + 1) ++ m a).signExtend 32) ∧
        CompletesWriting (.lhu rt base off) s rt ((m (a + 1) ++ m a).setWidth 64) ((m (a + 1) ++ m a).setWidth 32)) ∧
      (va % 4 = 0 →
        CompletesWriting32 (.lw rt base off) s rt (m (a + 3) ++ m (a + 2) ++ m (a + 1) ++ m a) ∧
        (s.cpu = .ee → CompletesWritingEe64 (.lwu rt base off) s rt
          ((m (a + 3) ++ m (a + 2) ++ m (a + 1) ++ m a).setWidth 64))) ∧
      (va % 8 = 0 → s.cpu = .ee → ∃ v : Dword, (∀ k, k < 8 → v.extractLsb' (8 * k) 8 = m (a + k)) ∧
        CompletesWritingEe64 (.ld rt base off) s rt v)) ∧
    (pageEntry s.cpu (translate s.cpu (s.quadAddr base off)) = some r → s.cpu = .ee →
      ∃ v : Quad, (∀ k, k < 16 → v.extractLsb' (8 * k) 8 =
          s.mem.read (regionKey r (translate s.cpu (s.quadAddr base off)) + k)) ∧
        CompletesWritingEe128 (.lq rt base off) s rt v)

/-- The stores complete to every writable, aligned address: the low bytes of rt are there, lowest first, every other
byte of memory and everything else is as before, and memory stays canonical (42_load_store.md sections 1 and 3). -/
def Obligations.StoresToMemoryComplete : Prop :=
  ∀ (s : State) (rt base : Reg) (off : BitVec 16) (r : Region), s.storesDiscarded = false → r.writable = true →
    (pageEntry s.cpu (translate s.cpu (s.effAddr base off)) = some r →
      let a := regionKey r (translate s.cpu (s.effAddr base off))
      let va := (s.effAddr base off).toNat
      (∃ t, exec (.sb rt base off) s = .next t ∧ MemWritten s a 1 ((s.r32 rt).setWidth 128) t ∧
        (s.mem.wf → t.mem.wf)) ∧
      (va % 2 = 0 → ∃ t, exec (.sh rt base off) s = .next t ∧ MemWritten s a 2 ((s.r32 rt).setWidth 128) t ∧
        (s.mem.wf → t.mem.wf)) ∧
      (va % 4 = 0 → ∃ t, exec (.sw rt base off) s = .next t ∧ MemWritten s a 4 ((s.r32 rt).setWidth 128) t ∧
        (s.mem.wf → t.mem.wf)) ∧
      (va % 8 = 0 → s.cpu = .ee → ∃ t, exec (.sd rt base off) s = .next t ∧
        MemWritten s a 8 ((s.ee64 rt).setWidth 128) t ∧ (s.mem.wf → t.mem.wf))) ∧
    (pageEntry s.cpu (translate s.cpu (s.quadAddr base off)) = some r → s.cpu = .ee →
      ∃ t, exec (.sq rt base off) s = .next t ∧
        MemWritten s (regionKey r (translate s.cpu (s.quadAddr base off))) 16 (s.eeReg rt) t ∧
        (s.mem.wf → t.mem.wf))

/-- A store to a writable page followed by a load of the same size at the same address gives the value stored, its
low bytes (42_load_store.md R364's round trip, for every size; 20_memory.md section 6). -/
def Obligations.LoadAfterStoreGivesTheValue : Prop :=
  ∀ (s t : State) (va : Word) (n : Nat) (v : Quad) (r : Region), n ≤ 16 → s.storesDiscarded = false →
    pageEntry s.cpu (translate s.cpu va) = some r → r.writable = true → memWrite s va n v = .next t →
    ∃ x, memRead t va n = .value x t ∧ x.toNat = v.toNat % 2 ^ (8 * n)

/-- IOP RAM is one buffer: what the EE stores through its window at 0x1C000000 the IOP reads at the same offset of
each of its four mirrors (20_memory.md R100, R107). -/
def Obligations.IopRamIsSharedWithTheEe : Prop :=
  ∀ (s t : State) (va va' : Word) (n mirror : Nat) (v : Quad), s.turn = .cpu .ee → (n = 1 ∨ n = 2 ∨ n = 4) →
    0x1C000000 ≤ (translate .ee va).toNat → (translate .ee va).toNat < 0x1C200000 → mirror < 4 →
    (translate .iop va').toNat + 0x1C000000 = (translate .ee va).toNat + mirror * 0x200000 →
    memWrite s va n v = .next t →
    ∃ x, memRead { t with turn := .cpu .iop } va' n = .value x { t with turn := .cpu .iop } ∧
      x.toNat = v.toNat % 2 ^ (8 * n)

/-- Translation: the EE passes its scratchpad window through, masks its uncached window with 0x0FFFFFFF and every
other address with 0x1FFFFFFF; the IOP masks every address with 0x1FFFFFFF (20_memory.md R101, R102). -/
def Obligations.TranslationMasksTheAddress : Prop :=
  ∀ va : Word,
    (0x70000000 ≤ va.toNat ∧ va.toNat < 0x70004000 → translate .ee va = va) ∧
    (0x30000000 ≤ va.toNat ∧ va.toNat < 0x40000000 → (translate .ee va).toNat = va.toNat % 2 ^ 28) ∧
    (¬ (0x70000000 ≤ va.toNat ∧ va.toNat < 0x70004000) → ¬ (0x30000000 ≤ va.toNat ∧ va.toNat < 0x40000000) →
      (translate .ee va).toNat = va.toNat % 2 ^ 29) ∧
    (translate .iop va).toNat = va.toNat % 2 ^ 29

/-! ## SYNC, CACHE and the TLB operations -/

/-- On the EE, SYNC, CACHE and the four TLB operations complete and change nothing; on the IOP, SYNC and CACHE are
illegal and the TLB operations refused (42_load_store.md R370, R371; 43_system.md R389 to R392). -/
def Obligations.BarriersAndTlbOperationsChangeNothing : Prop :=
  ∀ (s : State) (stype op x y z : BitVec 5) (base : Reg) (off : BitVec 16),
    decode .ee (encodeR 0 x y z stype 0x0F) = .instr (.sync stype) ∧
    decode .ee (encodeI 0x2F (bitsOfReg base) op off) = .instr (.cache op base off) ∧
    decode .ee (encodeR 0x10 0x10 x y z 0x01) = .instr .tlbr ∧
    decode .ee (encodeR 0x10 0x10 x y z 0x02) = .instr .tlbwi ∧
    decode .ee (encodeR 0x10 0x10 x y z 0x06) = .instr .tlbwr ∧
    decode .ee (encodeR 0x10 0x10 x y z 0x08) = .instr .tlbp ∧
    (s.cpu = .ee → exec (.sync stype) s = .next s ∧ exec (.cache op base off) s = .next s ∧
      exec .tlbr s = .next s ∧ exec .tlbwi s = .next s ∧ exec .tlbwr s = .next s ∧ exec .tlbp s = .next s) ∧
    (s.cpu = .iop →
      exec (.sync stype) s = .fault (.illegalInstruction (encode (.sync stype)) s.pc) ∧
      exec (.cache op base off) s = .fault (.illegalInstruction (encode (.cache op base off)) s.pc) ∧
      exec .tlbr s = .refused (.notAdmitted (encode .tlbr) s.pc) ∧
      exec .tlbwi s = .refused (.notAdmitted (encode .tlbwi) s.pc) ∧
      exec .tlbwr s = .refused (.notAdmitted (encode .tlbwr) s.pc) ∧
      exec .tlbp s = .refused (.notAdmitted (encode .tlbp) s.pc))

/-! ## System instructions and exceptions -/

/-- SYSCALL and BREAK complete, whatever their code field, by taking the exception of their code
(43_system.md R380, R381). -/
def Obligations.SyscallAndBreakRaise : Prop :=
  ∀ (s : State) (c : Cpu) (code : BitVec 20),
    (decode c (encodeCode code 0x0C) = .instr (.syscall code) ∧
      exec (.syscall code) s = .next (doException .syscall .sync s)) ∧
    (decode c (encodeCode code 0x0D) = .instr (.brk code) ∧
      exec (.brk code) s = .next (doException .breakpoint .sync s))

/-- Taking an exception: EPC is the address to restart at and Cause.BD says whether it is the branch before; ExcCode is
the exception's; the EE sets EXL, the IOP pushes its stack; the branch in flight is discarded; pc is the vector that
BEV selects, less 4 where step 5 follows; nothing else changes (60_exceptions.md R412, R415). -/
def Obligations.ExceptionEntrySavesAndRedirects : Prop :=
  ∀ (s : State) (e : Exc) (p : EntryPoint),
    let t := doException e p s
    let code : Nat := match e with
      | .interrupt => 0
      | .syscall => 8
      | .breakpoint => 9
      | .overflow => 12
    let bev := s.ctl.status.getLsbD 22
    let vector : Word := match s.cpu, e with
      | .ee, .interrupt => if bev then 0xBFC00400#32 else 0x80000200#32
      | .ee, _ => if bev then 0xBFC00380#32 else 0x80000180#32
      | .iop, _ => if bev then 0xBFC00180#32 else 0x80000080#32
    CtlWritten s t.ctl t ∧
    t.ctl.epc = (if s.ctl.inDelaySlot then s.pc - 4 else s.pc) ∧
    (∀ j, j < 32 → t.ctl.cause.getLsbD j =
      if j = 31 then s.ctl.inDelaySlot
      else if 2 ≤ j ∧ j ≤ 6 then code.testBit (j - 2)
      else s.ctl.cause.getLsbD j) ∧
    (∀ j, j < 32 → t.ctl.status.getLsbD j = match s.cpu with
      | .ee => if j = 1 then true else s.ctl.status.getLsbD j
      | .iop => if j < 2 then false else if j < 6 then s.ctl.status.getLsbD (j - 2) else s.ctl.status.getLsbD j) ∧
    t.ctl.branchPending = false ∧ t.ctl.inDelaySlot = false ∧ t.ctl.branchTarget = s.ctl.branchTarget ∧
    t.pc = (match p with
      | .sync => vector - 4
      | .boundary => vector)

/-- MFC0 completes for every register: a modelled one gives its stored value (Cause with the live interrupt lines, the
EE DMAC's written out bit by bit from D_STAT by 60_exceptions.md R503, PRId its constant), any other a draw,
sign-extended into rt on the EE (43_system.md R382). -/
def Obligations.Mfc0ReadsTheRegister : Prop :=
  ∀ (s : State) (c : Cpu) (rt rd : Reg) (x : BitVec 5) (f : BitVec 6),
    decode c (encodeR 0x10 0x00 (bitsOfReg rt) (bitsOfReg rd) x f) = .instr (.mfc0 rt rd) ∧
    CompletesWriting32 (.mfc0 rt 12) s rt s.ctl.status ∧
    CompletesWriting32 (.mfc0 rt 14) s rt s.ctl.epc ∧
    (∃ v : Word, CompletesWriting32 (.mfc0 rt 13) s rt v ∧ ∀ j, j < 32 → v.getLsbD j = match s.cpu with
      | .ee =>
        if j = 10 then s.eeIntc.stat &&& s.eeIntc.mask != 0
        else if j = 11 then eeDmacLine s.eeDmac.dStat
        else s.ee.ctl.cause.getLsbD j
      | .iop => if j = 10 then s.iopIntc.stat &&& s.iopIntc.mask != 0 else s.iop.ctl.cause.getLsbD j) ∧
    (s.cpu = .ee →
      CompletesWriting32 (.mfc0 rt 9) s rt s.ee.count ∧
      CompletesWriting32 (.mfc0 rt 11) s rt s.ee.compare ∧
      CompletesWriting32 (.mfc0 rt 30) s rt s.ee.errorEpc ∧
      CompletesWriting32 (.mfc0 rt 15) s rt 0x00002E20#32 ∧
      (rd.val ∉ [9, 11, 12, 13, 14, 15, 30] →
        ∃ t, exec (.mfc0 rt rd) s = .next t ∧ Reg32Written s.afterDraw rt (s.nextDraw.setWidth 32) t)) ∧
    (s.cpu = .iop →
      CompletesWriting32 (.mfc0 rt 15) s rt 0x0000001F#32 ∧
      (rd.val ∉ [12, 13, 14, 15] →
        ∃ t, exec (.mfc0 rt rd) s = .next t ∧ Reg32Written s.afterDraw rt (s.nextDraw.setWidth 32) t))

/-- MTC0 completes for every register and changes that register alone, Compare with Cause.IP7, Cause its two software
bits on the IOP and nothing on the EE, PRId and the unmodelled registers nothing (43_system.md R383, R384). EI and DI
complete on the EE, setting and clearing Status.EIE; the IOP refuses them (43_system.md R387, R388). -/
def Obligations.Cop0WritesComplete : Prop :=
  ∀ (s : State) (c : Cpu) (rt rd : Reg) (x y z : BitVec 5) (f : BitVec 6),
    decode c (encodeR 0x10 0x04 (bitsOfReg rt) (bitsOfReg rd) x f) = .instr (.mtc0 rt rd) ∧
    CompletesWritingCtl (.mtc0 rt 12) s { s.ctl with status := s.r32 rt } ∧
    CompletesWritingCtl (.mtc0 rt 14) s { s.ctl with epc := s.r32 rt } ∧
    (s.cpu = .ee →
      exec (.mtc0 rt 30) s = .next { s with ee := { s.ee with errorEpc := s.r32 rt } } ∧
      exec (.mtc0 rt 9) s = .next { s with ee := { s.ee with count := s.r32 rt } } ∧
      (∃ w : Word, exec (.mtc0 rt 11) s =
          .next { s with ee := { s.ee with compare := s.r32 rt, ctl := { s.ee.ctl with cause := w } } } ∧
        ∀ j, j < 32 → w.getLsbD j = if j = 15 then false else s.ee.ctl.cause.getLsbD j) ∧
      (rd.val ∉ [9, 11, 12, 14, 30] → exec (.mtc0 rt rd) s = .next s)) ∧
    (s.cpu = .iop →
      (∃ w : Word, CompletesWritingCtl (.mtc0 rt 13) s { s.ctl with cause := w } ∧
        ∀ j, j < 32 → w.getLsbD j = if j = 8 ∨ j = 9 then (s.r32 rt).getLsbD j else s.iop.ctl.cause.getLsbD j) ∧
      (rd.val ∉ [12, 13, 14] → exec (.mtc0 rt rd) s = .next s)) ∧
    decode .ee (encodeR 0x10 0x10 x y z 0x38) = .instr .ei ∧
    decode .ee (encodeR 0x10 0x10 x y z 0x39) = .instr .di ∧
    (s.cpu = .ee →
      (∃ w : Word, CompletesWritingCtl .ei s { s.ctl with status := w } ∧
        ∀ j, j < 32 → w.getLsbD j = if j = 16 then true else s.ctl.status.getLsbD j) ∧
      (∃ w : Word, CompletesWritingCtl .di s { s.ctl with status := w } ∧
        ∀ j, j < 32 → w.getLsbD j = if j = 16 then false else s.ctl.status.getLsbD j)) ∧
    (s.cpu = .iop →
      exec .ei s = .refused (.notAdmitted (encode .ei) s.pc) ∧
      exec .di s = .refused (.notAdmitted (encode .di) s.pc))

/-- ERET on the EE: in a delay slot it faults; outside one it completes, with ERL cleared and the target ErrorEPC
where ERL was 1, else EXL cleared and the target EPC, then the low six bits of Status shifted right by 2, and pc 4
before the target; nothing else changes. The IOP refuses it (43_system.md section 3, with `ee_eret_pop` at its
default). The model's choice of notes/assumptions/24.md: the pseudocode of R385 is followed, by which IE is 0 after
every ERET, against that rule's corner remark that excepts EXL = ERL = 1. -/
def Obligations.EretReturns : Prop :=
  ∀ (s : State) (x y z : BitVec 5),
    decode .ee (encodeR 0x10 0x10 x y z 0x18) = .instr .eret ∧
    (s.cpu = .ee → s.ctl.inDelaySlot = true → exec .eret s = .fault (.branchInDelaySlot s.pc)) ∧
    (s.cpu = .ee → s.ctl.inDelaySlot = false →
      let erl := s.ctl.status.getLsbD 2
      ∃ cleared w : Word,
        (∀ j, j < 32 → cleared.getLsbD j = if j = (if erl then 2 else 1) then false else s.ctl.status.getLsbD j) ∧
        (∀ j, j < 32 → w.getLsbD j =
          if j < 4 then cleared.getLsbD (j + 2) else if j < 6 then false else cleared.getLsbD j) ∧
        CompletesWritingCtl .eret s
          { s.ctl with status := w, pc := (if erl then s.ee.errorEpc else s.ctl.epc) - 4 }) ∧
    (s.cpu = .iop → exec .eret s = .refused (.notAdmitted (encode .eret) s.pc))

/-- RFE completes on the IOP, in a delay slot too: Status bits 3:0 take bits 5:2, pc is 4 before EPC, nothing else
changes; the EE refuses it. The model's choice of notes/assumptions/24.md: the pseudocode of 43_system.md R386 and
decision D12 are followed, not the Example of R386 that disagrees with them. -/
def Obligations.RfePopsTheStack : Prop :=
  ∀ (s : State) (x y z : BitVec 5),
    decode .iop (encodeR 0x10 0x10 x y z 0x10) = .instr .rfe ∧
    (s.cpu = .iop → ∃ w : Word, CompletesWritingCtl .rfe s { s.ctl with status := w, pc := s.ctl.epc - 4 } ∧
      ∀ j, j < 32 → w.getLsbD j = if j < 4 then s.ctl.status.getLsbD (j + 2) else s.ctl.status.getLsbD j) ∧
    (s.cpu = .ee → exec .rfe s = .refused (.notAdmitted (encode .rfe) s.pc))

/-- The interrupt check enters the interrupt exception at the boundary exactly where interrupts are enabled and an
enabled source is pending: on the EE the INTC line, the DMAC line (D_STAT bit by bit, R503) or the Count compare, on
the IOP the two software bits or the INTC line; elsewhere it changes nothing (60_exceptions.md R420). -/
def Obligations.InterruptCheckTakesPendingSources : Prop :=
  ∀ s : State, s.CoreInv →
    let st := s.ctl.status
    let taken : Prop := match s.cpu with
      | .ee => st.getLsbD 0 = true ∧ st.getLsbD 1 = false ∧ st.getLsbD 16 = true ∧
        ((st.getLsbD 10 = true ∧ s.eeIntc.stat &&& s.eeIntc.mask ≠ 0) ∨
          (st.getLsbD 11 = true ∧ eeDmacLine s.eeDmac.dStat = true) ∨
          (st.getLsbD 15 = true ∧ s.ee.ctl.cause.getLsbD 15 = true))
      | .iop => st.getLsbD 0 = true ∧
        ((st.getLsbD 8 = true ∧ s.iop.ctl.cause.getLsbD 8 = true) ∨
          (st.getLsbD 9 = true ∧ s.iop.ctl.cause.getLsbD 9 = true) ∨
          (st.getLsbD 10 = true ∧ s.iopIntc.stat &&& s.iopIntc.mask ≠ 0))
    (taken → interruptCheck s = doException .interrupt .boundary s) ∧ (¬ taken → interruptCheck s = s)

/-- Entry writes no general register, HI, LO, Count or Compare, leaves the EE's KSU, ERL and EIE, and masks further
interrupts of its CPU: none is taken at the check of the same step (60_exceptions.md R414). -/
def Obligations.EntryMasksInterrupts : Prop :=
  ∀ (s : State) (e : Exc) (p : EntryPoint),
    (∀ r, (doException e p s).eeReg r = s.eeReg r ∧ (doException e p s).iopReg r = s.iopReg r) ∧
    (doException e p s).ee.hi = s.ee.hi ∧ (doException e p s).ee.lo = s.ee.lo ∧
    (doException e p s).iop.hi = s.iop.hi ∧ (doException e p s).iop.lo = s.iop.lo ∧
    (doException e p s).ee.count = s.ee.count ∧ (doException e p s).ee.compare = s.ee.compare ∧
    (s.cpu = .ee → ∀ j ∈ [2, 3, 4, 16],
      (doException e p s).ctl.status.getLsbD j = s.ctl.status.getLsbD j) ∧
    (s.cpu = .ee → (doException e p s).ctl.status.getLsbD 1 = true) ∧
    (s.cpu = .iop → (doException e p s).ctl.status.getLsbD 0 = false) ∧
    interruptCheck (doException e p s) = doException e p s ∧
    finishStep (doException e .sync s) = countTick (advance (doException e .sync s))

/-- SYSCALL and then ERET: the call leaves its own address in EPC and goes to the vector; a handler that ends in ERET
with EPC and Status as the call left them comes back to the call's address, and no interrupt is taken there
(60_exceptions.md R431). -/
def Obligations.SyscallThenEretComesBack : Prop :=
  ∀ (s : State) (w : Word) (code : BitVec 20), s.turn = .cpu .ee → s.ctl.inDelaySlot = false →
    s.ctl.status.getLsbD 2 = false → fetch s = .ok w → decode .ee w = .instr (.syscall code) →
    ∃ t, cpuStep s = .next t ∧ t.turn = .cpu .ee ∧ t.ctl.epc = s.pc ∧ t.ctl.cause.getLsbD 31 = false ∧
      t.ctl.cause.extractLsb' 2 5 = 8#5 ∧ t.ctl.status.getLsbD 1 = true ∧
      t.pc = (if s.ctl.status.getLsbD 22 then 0xBFC00380#32 else 0x80000180#32) ∧
      ∀ (u : State) (w' : Word), u.turn = .cpu .ee → u.ctl.epc = t.ctl.epc → u.ctl.status = t.ctl.status →
        u.ctl.inDelaySlot = false → fetch u = .ok w' → decode .ee w' = .instr .eret →
        ∃ v, cpuStep u = .next v ∧ v.pc = s.pc ∧ v.ctl.status.getLsbD 0 = false ∧
          v.ctl.status.getLsbD 1 = s.ctl.status.getLsbD 3

/-! ## Whole-machine frames -/

/-- What any instruction leaves alone, whatever it is: every general register it does not name as a destination, HI
and LO but for the six that write them, memory and the devices but for the stores (and I_CTRL, which a load may
clear), every byte of memory outside the n bytes of a store, and all of memory where no page serves the store's address
(a device or an external range), Status, Cause, EPC, ErrorEPC, Count and Compare but for the instructions that may
raise an exception or write COP0, and always the scheduler, the inputs, the DMA history and the driver's position
(10_state.md R41, R45; 20_memory.md R133; 43_system.md R384; 60_exceptions.md R414). -/
def Obligations.FrameOfEveryInstruction : Prop :=
  ∀ (i : Instr) (s t : State), exec i s = .next t →
    (∀ r, r ∉ destinationsOf i → t.eeReg r = s.eeReg r ∧ t.iopReg r = s.iopReg r) ∧
    (writesHiLo i = false → t.ee.hi = s.ee.hi ∧ t.ee.lo = s.ee.lo ∧ t.iop.hi = s.iop.hi ∧ t.iop.lo = s.iop.lo) ∧
    (isStore i = false → t.mem = s.mem ∧ t.extWrites = s.extWrites ∧ t.eeIntc = s.eeIntc ∧ t.eeDmac = s.eeDmac ∧
      t.iopDmac = s.iopDmac ∧ t.eeTimers = s.eeTimers ∧ t.iopTimers = s.iopTimers ∧
      t.iopIntc.stat = s.iopIntc.stat ∧ t.iopIntc.mask = s.iopIntc.mask) ∧
    (∀ va n, storeSpan i s = some (va, n) →
      (∀ r, pageEntry s.cpu (translate s.cpu va) = some r → ∀ b,
        b < regionKey r (translate s.cpu va) ∨ regionKey r (translate s.cpu va) + n ≤ b → t.mem.read b = s.mem.read b) ∧
      (pageEntry s.cpu (translate s.cpu va) = none → t.mem = s.mem)) ∧
    (accessesMemory i = false → t.iopIntc = s.iopIntc ∧ ((∀ rt rd, i ≠ .mfc0 rt rd) → t.draws = s.draws)) ∧
    (mayChangeStatus i = false → t.ctl.status = s.ctl.status ∧ t.ctl.cause = s.ctl.cause ∧ t.ctl.epc = s.ctl.epc ∧
      t.ctl.inDelaySlot = s.ctl.inDelaySlot ∧ t.ee.errorEpc = s.ee.errorEpc ∧ t.ee.count = s.ee.count ∧
      t.ee.compare = s.ee.compare) ∧
    t.sched = s.sched ∧ t.extIrq = s.extIrq ∧ t.dmaOut = s.dmaOut ∧ t.turn = s.turn ∧ t.ticks = s.ticks ∧
    t.elapsed = s.elapsed

/-- A step of one CPU never changes the other's core, interrupt controller, DMA controller or timers: there is no
cross-CPU exception, and the only store a CPU shares is memory (60_exceptions.md R446; 20_memory.md R122). -/
def Obligations.ACpuStepLeavesTheOtherSideAlone : Prop :=
  ∀ s t : State, step s = .next t →
    (s.turn = .cpu .ee → t.iop = s.iop ∧ t.iopIntc = s.iopIntc ∧ t.iopDmac = s.iopDmac ∧ t.iopTimers = s.iopTimers) ∧
    (s.turn = .cpu .iop → t.ee = s.ee ∧ t.eeIntc = s.eeIntc ∧ t.eeDmac = s.eeDmac ∧ t.eeTimers = s.eeTimers)

/-! ## Invariants that every step keeps -/

/-- Every step of every agent, from every state in which memory is canonical and lists only bytes of the five buffers
and the devices hold only what their tables store, leaves memory canonical and within the buffers: no access, of a CPU
or of a DMA controller, ends outside its buffer (20_memory.md R107, R114, R134). -/
def Obligations.StepKeepsMemoryCanonical : Prop :=
  ∀ s t : State, s.MemInv → s.DeviceInv → step s = .next t → t.MemInv

/-- Every step keeps the device registers within the bits their tables store, a channel's phase tied to its start bit,
the gates off and the 16-bit IOP timers within 16 bits (60_exceptions.md R482, R483, R490, R497, R521 to R525, R541,
R570, R571). -/
def Obligations.StepKeepsDeviceRegisters : Prop :=
  ∀ s t : State, s.DeviceInv → step s = .next t → t.DeviceInv

/-- Every step keeps register 0 at zero in both files and Cause within its stored bits (10_state.md R41, R55, R59). -/
def Obligations.StepKeepsTheCores : Prop :=
  ∀ s t : State, s.CoreInv → step s = .next t → t.CoreInv

/-- Every step keeps the driver at a position of its loop and the event queue sorted by deadline
(60_exceptions.md R580, R581, R583; the position is the model's own state, notes/assumptions/3.md and 4.md, and
deadlines compare as notes/assumptions/14.md says). -/
def Obligations.StepKeepsTheDriverAndQueue : Prop :=
  ∀ s t : State, s.DriverInv → step s = .next t → t.DriverInv

/-- The reset state satisfies the four invariants. -/
def Obligations.ResetSatisfiesTheInvariants : Prop :=
  State.reset.MemInv ∧ State.reset.DeviceInv ∧ State.reset.CoreInv ∧ State.reset.DriverInv

/-! ## Reset -/

/-- What reset leaves: every register, device register and byte of RAM zero, both pcs at 0xBFC00000, every DMA phase
Idle, the three video events in order of deadline, both histories empty (70_reset_and_hazards.md R600). Every BIOS
image that fits its buffer is loaded, byte for byte and alone (R610). The page tables map exactly the regions of the
lists, each to its buffer, with its writability and its mirrors: the ROM read-only on both sides, the IOP RAM four times
and the IOP scratchpad four times within its page on the IOP's (20_memory.md R105, R106, R107). The keys by which one
list holds the five buffers, each from its own base on, are the model's choice of notes/assumptions/7.md; that an image
may be shorter than the buffer, its other bytes then zero, is that of notes/assumptions/1.md. -/
def Obligations.ResetGivesEveryElementItsValue : Prop :=
  let s := State.reset
  let zeroCtl : CpuCtl :=
    { pc := 0xBFC00000#32, branchPending := false, inDelaySlot := false, branchTarget := 0, status := 0, cause := 0,
      epc := 0 }
  (∀ r, s.eeReg r = 0 ∧ s.iopReg r = 0) ∧
  s.ee.hi = 0 ∧ s.ee.lo = 0 ∧ s.iop.hi = 0 ∧ s.iop.lo = 0 ∧ s.ee.ctl = zeroCtl ∧ s.iop.ctl = zeroCtl ∧
  s.ee.errorEpc = 0 ∧ s.ee.count = 0 ∧ s.ee.compare = 0 ∧
  (∀ a, a < 0x1FC00000 ∨ 0x20000000 ≤ a → s.mem.read a = 0) ∧
  (∀ image, image.length ≤ 0x400000 → ∃ t, s.loadBios image = some t ∧
    (∀ k (h : k < image.length), t.mem.read (0x1FC00000 + k) = image[k]) ∧
    (∀ a, a < 0x1FC00000 ∨ 0x1FC00000 + image.length ≤ a → t.mem.read a = 0) ∧ { t with mem := s.mem } = s) ∧
  (∀ pa : Word,
    let at' := pa.toNat
    (pageEntry .ee pa).map (fun r => (r.buf, r.writable, regionKey r pa)) =
      (if at' < 0x02000000 then some (.eeRam, true, at')
       else if 0x1C000000 ≤ at' ∧ at' < 0x1C200000 then some (.iopRam, true, at')
       else if 0x1FC00000 ≤ at' ∧ at' < 0x20000000 then some (.bios, false, at')
       else if 0x70000000 ≤ at' ∧ at' < 0x70004000 then some (.eeSpr, true, at')
       else none) ∧
    (pageEntry .iop pa).map (fun r => (r.buf, r.writable, regionKey r pa)) =
      (if at' < 0x00800000 then some (.iopRam, true, 0x1C000000 + at' % 0x200000)
       else if 0x1F800000 ≤ at' ∧ at' < 0x1F801000 then some (.iopSpr, true, 0x1F800000 + at' % 0x400)
       else if 0x1FC00000 ≤ at' ∧ at' < 0x20000000 then some (.bios, false, at')
       else none)) ∧
  s.eeIntc = { stat := 0, mask := 0 } ∧ s.iopIntc = { stat := 0, mask := 0, ctrl := 0 } ∧
  (∀ ch, s.eeChannel ch =
    { chcr := 0, madr := 0, qwc := 0, tadr := 0, asr0 := 0, asr1 := 0, sadr := 0, phase := .idle, chainEnd := false }) ∧
  s.eeDmac.dCtrl = 0 ∧ s.eeDmac.dStat = 0 ∧ s.eeDmac.dPcr = 0 ∧ s.eeDmac.dSqwc = 0 ∧ s.eeDmac.dRbsr = 0 ∧
  s.eeDmac.dRbor = 0 ∧ s.eeDmac.dEnablew = 0 ∧
  (∀ ch, s.iopChannel ch = { madr := 0, bcr := 0, chcr := 0, tadr := 0, phase := .idle, remaining := 0 }) ∧
  s.iopDmac.dpcr = 0 ∧ s.iopDmac.dicr = 0 ∧ s.iopDmac.dpcr2 = 0 ∧ s.iopDmac.dicr2 = 0 ∧
  (∀ n, s.eeTimer n = { count := 0, mode := 0, comp := 0, hold := 0, pre := 0 }) ∧
  (∀ n, s.iopTimer n = { count := 0, mode := 0, target := 0 }) ∧
  s.sched = { now := 0, queue := [
    { deadline := 9362#64, id := none, kind := .hblank },
    { deadline := 4546560#64, id := none, kind := .vblankStart },
    { deadline := 4915200#64, id := none, kind := .vblankEnd } ] } ∧
  s.dmaOut = [] ∧ s.extWrites = []

/-! ## Devices -/

/-- The interrupt registers at their addresses: INTC_STAT acknowledges and INTC_MASK toggles, I_STAT acknowledges,
I_MASK assigns, I_CTRL clears itself when read, D_STAT clears its status bits and toggles its mask bits where a 1 is
written; DICR reads its line in bit 31, and a write of DICR or DICR2 clears flags where a 1 is written, stores the rest
and requests source 3 where the line is then 1; the timers' registers, with the faults of the gate modes; the channel
and control registers of both DMA controllers, which read as stored and store what their tables name, CHCR's writes
being those of DmaStartsFollowTheirRules (60_exceptions.md R450, R460, R463, R481, R482, R483, R520, R521, R525, R526,
R540 to R542, R570, R571). And the external ranges, whose reads
are draws and whose writes are recorded and change nothing else (20_memory.md R123): that an access is placed by its
first byte alone, also at a range's end, and that the draw and the recorded value are cut to its n bytes is the model's
choice of notes/assumptions/18.md, and the form of a draw that of notes/assumptions/5.md. -/
def Obligations.InterruptRegistersAndExternalRanges : Prop :=
  ∀ (s : State) (v : Quad),
    let w : Word := v.setWidth 32
    mmioRead .ee s 0x1000F000#32 4 = .value (s.eeIntc.stat.setWidth 128) s ∧
    mmioRead .ee s 0x1000F010#32 4 = .value (s.eeIntc.mask.setWidth 128) s ∧
    mmioWrite .ee s 0x1000F000#32 4 v =
      .next { s with eeIntc := { s.eeIntc with stat := s.eeIntc.stat &&& ~~~(w.setWidth 15) } } ∧
    mmioWrite .ee s 0x1000F010#32 4 v =
      .next { s with eeIntc := { s.eeIntc with mask := s.eeIntc.mask ^^^ w.setWidth 15 } } ∧
    mmioRead .iop s 0x1F801070#32 4 = .value (s.iopIntc.stat.setWidth 128) s ∧
    mmioRead .iop s 0x1F801074#32 4 = .value (s.iopIntc.mask.setWidth 128) s ∧
    mmioRead .iop s 0x1F801078#32 4 =
      .value (s.iopIntc.ctrl.setWidth 128) { s with iopIntc := { s.iopIntc with ctrl := 0 } } ∧
    mmioWrite .iop s 0x1F801070#32 4 v =
      .next { s with iopIntc := { s.iopIntc with stat := s.iopIntc.stat &&& ~~~w } } ∧
    mmioWrite .iop s 0x1F801074#32 4 v = .next { s with iopIntc := { s.iopIntc with mask := w } } ∧
    mmioWrite .iop s 0x1F801078#32 4 v = .next { s with iopIntc := { s.iopIntc with ctrl := w } } ∧
    mmioRead .ee s 0x1000E010#32 4 = .value (s.eeDmac.dStat.setWidth 128) s ∧
    (∃ d : Word, mmioWrite .ee s 0x1000E010#32 4 v = .next { s with eeDmac := { s.eeDmac with dStat := d } } ∧
      ∀ j, j < 32 → d.getLsbD j =
        if j < 10 ∨ j = 13 ∨ j = 14 ∨ j = 15 then s.eeDmac.dStat.getLsbD j && !w.getLsbD j
        else if (16 ≤ j ∧ j < 26) ∨ j = 29 ∨ j = 30 then s.eeDmac.dStat.getLsbD j ^^ w.getLsbD j
        else s.eeDmac.dStat.getLsbD j) ∧
    -- DICR and DICR2
    (∃ d : Word, mmioRead .iop s 0x1F8010F4#32 4 = .value (d.setWidth 128) s ∧ ∀ j, j < 32 → d.getLsbD j =
      if j = 31 then iopDmacLine s.iopDmac.dicr s.iopDmac.dicr2 else s.iopDmac.dicr.getLsbD j) ∧
    mmioRead .iop s 0x1F801574#32 4 = .value (s.iopDmac.dicr2.setWidth 128) s ∧
    (∃ d st : Word, mmioWrite .iop s 0x1F8010F4#32 4 v = .next { s with
        iopDmac := { s.iopDmac with dicr := d }
        iopIntc := { s.iopIntc with stat := st } } ∧
      (∀ j, j < 32 → d.getLsbD j =
        if j < 24 then w.getLsbD j else if j < 31 then s.iopDmac.dicr.getLsbD j && !w.getLsbD j else false) ∧
      ∀ j, j < 32 → st.getLsbD j =
        if j = 3 then s.iopIntc.stat.getLsbD j || iopDmacLine d s.iopDmac.dicr2 else s.iopIntc.stat.getLsbD j) ∧
    (∃ d st : Word, mmioWrite .iop s 0x1F801574#32 4 v = .next { s with
        iopDmac := { s.iopDmac with dicr2 := d }
        iopIntc := { s.iopIntc with stat := st } } ∧
      (∀ j, j < 32 → d.getLsbD j =
        if j < 24 then w.getLsbD j else if j < 30 then s.iopDmac.dicr2.getLsbD j && !w.getLsbD j else false) ∧
      ∀ j, j < 32 → st.getLsbD j =
        if j = 3 then s.iopIntc.stat.getLsbD j || iopDmacLine s.iopDmac.dicr d else s.iopIntc.stat.getLsbD j) ∧
    -- the EE timers
    (∀ n : Fin 4,
      let t := s.eeTimer n
      let at' (off : Nat) : Word := BitVec.ofNat 32 (0x10000000 + 0x800 * n.val + off)
      mmioRead .ee s (at' 0x00) 4 = .value (t.count.setWidth 128) s ∧
      mmioRead .ee s (at' 0x10) 4 = .value (t.mode.setWidth 128) s ∧
      mmioRead .ee s (at' 0x20) 4 = .value (t.comp.setWidth 128) s ∧
      mmioWrite .ee s (at' 0x00) 4 v = .next (s.setEeTimer n { t with count := w.setWidth 16, pre := 0 }) ∧
      (w.getLsbD 2 = true → mmioWrite .ee s (at' 0x10) 4 v = .fault (.timerGate .ee n.val)) ∧
      (w.getLsbD 2 = false → ∃ m : Word, mmioWrite .ee s (at' 0x10) 4 v = .next (s.setEeTimer n { t with mode := m }) ∧
        ∀ j, j < 32 → m.getLsbD j =
          if j < 10 then w.getLsbD j else if j < 12 then t.mode.getLsbD j && !w.getLsbD j else false) ∧
      mmioWrite .ee s (at' 0x20) 4 v = .next (s.setEeTimer n { t with comp := w.setWidth 16 }) ∧
      (n.val < 2 → mmioRead .ee s (at' 0x30) 4 = .value (t.hold.setWidth 128) s ∧
        mmioWrite .ee s (at' 0x30) 4 v = .next (s.setEeTimer n { t with hold := w.setWidth 16 }))) ∧
    -- the IOP timers
    (∀ n : Fin 6,
      let t := s.iopTimer n
      let at' (off : Nat) : Word :=
        BitVec.ofNat 32 ((if n.val < 3 then 0x1F801100 + 0x10 * n.val else 0x1F801480 + 0x10 * (n.val - 3)) + off)
      let stored : Word := if n.val < 3 then (w.setWidth 16).setWidth 32 else w
      mmioRead .iop s (at' 0x0) 4 = .value (t.count.setWidth 128) s ∧
      mmioRead .iop s (at' 0x4) 4 = .value (t.mode.setWidth 128) s ∧
      mmioRead .iop s (at' 0x8) 4 = .value (t.target.setWidth 128) s ∧
      mmioWrite .iop s (at' 0x0) 4 v = .next (s.setIopTimer n { t with count := stored }) ∧
      (w.getLsbD 0 = true → mmioWrite .iop s (at' 0x4) 4 v = .fault (.timerGate .iop n.val)) ∧
      (w.getLsbD 0 = false → ∃ m : Word,
        mmioWrite .iop s (at' 0x4) 4 v = .next (s.setIopTimer n { t with mode := m, count := 0 }) ∧
        ∀ j, j < 32 → m.getLsbD j = if j < 10 ∨ (13 ≤ j ∧ j < 16) then w.getLsbD j else false) ∧
      mmioWrite .iop s (at' 0x8) 4 v = .next (s.setIopTimer n { t with target := stored })) ∧
    -- the channels and the control registers of the EE DMAC
    (∀ (ch : Fin 10) (base : Nat),
      (ch.val, base) ∈ [(0, 0x10008000), (1, 0x10009000), (2, 0x1000A000), (3, 0x1000B000), (4, 0x1000B400),
        (5, 0x1000C000), (6, 0x1000C400), (7, 0x1000C800), (8, 0x1000D000), (9, 0x1000D400)] →
      let c := s.eeChannel ch
      let reads (off : Nat) (x : Word) : Prop :=
        mmioRead .ee s (BitVec.ofNat 32 (base + off)) 4 = .value (x.setWidth 128) s
      let stores (off : Nat) (d : EeChannel) : Prop :=
        mmioWrite .ee s (BitVec.ofNat 32 (base + off)) 4 v = .next (s.setEeChannel ch d)
      reads 0x00 c.chcr ∧
      reads 0x10 c.madr ∧ stores 0x10 { c with madr := w &&& 0xFFFFFFF0#32 } ∧
      reads 0x20 (c.qwc.setWidth 32) ∧ stores 0x20 { c with qwc := w.setWidth 16 } ∧
      reads 0x30 c.tadr ∧ stores 0x30 { c with tadr := w &&& 0xFFFFFFF0#32 } ∧
      reads 0x40 c.asr0 ∧ stores 0x40 { c with asr0 := w &&& 0xFFFFFFF0#32 } ∧
      reads 0x50 c.asr1 ∧ stores 0x50 { c with asr1 := w &&& 0xFFFFFFF0#32 } ∧
      reads 0x80 c.sadr ∧ stores 0x80 { c with sadr := w &&& 0x00003FF0#32 }) ∧
    (let reads (pa x : Word) : Prop := mmioRead .ee s pa 4 = .value (x.setWidth 128) s
     let stores (pa : Word) (d : EeDmac) : Prop := mmioWrite .ee s pa 4 v = .next { s with eeDmac := d }
     reads 0x1000E000#32 s.eeDmac.dCtrl ∧ stores 0x1000E000#32 { s.eeDmac with dCtrl := w } ∧
     reads 0x1000E020#32 s.eeDmac.dPcr ∧ stores 0x1000E020#32 { s.eeDmac with dPcr := w } ∧
     reads 0x1000E030#32 s.eeDmac.dSqwc ∧ stores 0x1000E030#32 { s.eeDmac with dSqwc := w } ∧
     reads 0x1000E040#32 s.eeDmac.dRbsr ∧ stores 0x1000E040#32 { s.eeDmac with dRbsr := w } ∧
     reads 0x1000E050#32 s.eeDmac.dRbor ∧ stores 0x1000E050#32 { s.eeDmac with dRbor := w } ∧
     reads 0x1000F520#32 s.eeDmac.dEnablew ∧ stores 0x1000F520#32 s.eeDmac ∧
     reads 0x1000F590#32 s.eeDmac.dEnablew ∧ stores 0x1000F590#32 { s.eeDmac with dEnablew := w }) ∧
    -- the channels and the control registers of the IOP DMAC
    (∀ ch : Fin 13,
      let c := s.iopChannel ch
      let at' (off : Nat) : Word :=
        BitVec.ofNat 32 ((if ch.val < 7 then 0x1F801080 + 0x10 * ch.val else 0x1F801500 + 0x10 * (ch.val - 7)) + off)
      let reads (off : Nat) (x : Word) : Prop := mmioRead .iop s (at' off) 4 = .value (x.setWidth 128) s
      let stores (off : Nat) (d : IopChannel) : Prop := mmioWrite .iop s (at' off) 4 v = .next (s.setIopChannel ch d)
      reads 0x0 c.madr ∧ stores 0x0 { c with madr := w } ∧
      reads 0x4 c.bcr ∧ stores 0x4 { c with bcr := w } ∧
      reads 0x8 c.chcr ∧
      reads 0xC c.tadr ∧ stores 0xC { c with tadr := w }) ∧
    (let reads (pa x : Word) : Prop := mmioRead .iop s pa 4 = .value (x.setWidth 128) s
     let stores (pa : Word) (d : IopDmac) : Prop := mmioWrite .iop s pa 4 v = .next { s with iopDmac := d }
     reads 0x1F8010F0#32 s.iopDmac.dpcr ∧ stores 0x1F8010F0#32 { s.iopDmac with dpcr := w } ∧
     reads 0x1F801570#32 s.iopDmac.dpcr2 ∧ stores 0x1F801570#32 { s.iopDmac with dpcr2 := w }) ∧
    -- the external ranges
    (∀ (c : Cpu) (pa : Word) (n : Nat), n ≤ 16 → (Config.externalMmio c).any (fun r => r.holds pa.toNat) = true →
      (∃ x, mmioRead c s pa n = .value x s.afterDraw ∧ x.toNat = s.nextDraw.toNat % 2 ^ (8 * n)) ∧
      (∃ x, mmioWrite c s pa n v =
          .next { s with extWrites := s.extWrites ++ [{ cpu := c, pa := pa, n := n, value := x }] } ∧
        x.toNat = v.toNat % 2 ^ (8 * n)))

/-- The dispatcher: an in-block range takes 4-byte accesses at its registers' addresses only and comes before the
external ranges; every other access to it, and every access that no range holds, faults (20_memory.md R120). -/
def Obligations.AccessesThatNothingServesFault : Prop :=
  ∀ (s : State) (c : Cpu) (pa : Word) (n : Nat) (v : Quad),
    let inBlock := (Config.mmio c).any (fun r => r.holds pa.toNat)
    let external := (Config.externalMmio c).any (fun r => r.holds pa.toNat)
    let registers : List Nat := match c with
      | .ee =>
        [0x10000000, 0x10000800, 0x10001000, 0x10001800].flatMap (fun b => [b, b + 0x10, b + 0x20]) ++
        [0x10000030, 0x10000830] ++
        [0x10008000, 0x10009000, 0x1000A000, 0x1000B000, 0x1000B400, 0x1000C000, 0x1000C400, 0x1000C800, 0x1000D000,
          0x1000D400].flatMap (fun b => [b, b + 0x10, b + 0x20, b + 0x30, b + 0x40, b + 0x50, b + 0x80]) ++
        [0x1000E000, 0x1000E010, 0x1000E020, 0x1000E030, 0x1000E040, 0x1000E050, 0x1000F520, 0x1000F590, 0x1000F000,
          0x1000F010]
      | .iop =>
        [0x1F801070, 0x1F801074, 0x1F801078] ++
        (List.range 7).flatMap (fun k => (List.range 4).map fun j => 0x1F801080 + 0x10 * k + 4 * j) ++
        (List.range 6).flatMap (fun k => (List.range 4).map fun j => 0x1F801500 + 0x10 * k + 4 * j) ++
        (List.range 3).flatMap (fun k => (List.range 3).map fun j => 0x1F801100 + 0x10 * k + 4 * j) ++
        (List.range 3).flatMap (fun k => (List.range 3).map fun j => 0x1F801480 + 0x10 * k + 4 * j) ++
        [0x1F8010F0, 0x1F8010F4, 0x1F801570, 0x1F801574]
    (inBlock = true → n = 4 → pa.toNat ∈ registers → ∃ x u, mmioRead c s pa n = .value x u) ∧
    (inBlock = true → ¬ (n = 4 ∧ pa.toNat ∈ registers) →
      mmioRead c s pa n = .fault (.unhandledMmio pa n false) ∧
      mmioWrite c s pa n v = .fault (.unhandledMmio pa n true)) ∧
    (inBlock = false → external = true → ∃ x, mmioRead c s pa n = .value x s.afterDraw) ∧
    (inBlock = false → external = false →
      mmioRead c s pa n = .fault (.unhandledMmio pa n false) ∧
      mmioWrite c s pa n v = .fault (.unhandledMmio pa n true))

/-- Starting and stopping a DMA channel by a write of its CHCR, at its address, for every channel of both controllers
(60_exceptions.md R490, R522). -/
def Obligations.DmaStartsFollowTheirRules : Prop :=
  (∀ (s : State) (ch : Fin 10) (base : Nat) (v : Quad),
    (ch.val, base) ∈ [(0, 0x10008000), (1, 0x10009000), (2, 0x1000A000), (3, 0x1000B000), (4, 0x1000B400),
      (5, 0x1000C000), (6, 0x1000C400), (7, 0x1000C800), (8, 0x1000D000), (9, 0x1000D400)] →
    let c := s.eeChannel ch
    let new : Word := v.setWidth 32 &&& 0xFFFF01FD#32
    let write := mmioWrite .ee s (BitVec.ofNat 32 base) 4 v
    let mode := (new >>> 2).toNat % 4
    let fromMemory := ch.val ∈ [4, 6, 9] ∨ (ch.val ∈ [0, 1, 2, 7] ∧ new.getLsbD 0 = true)
    (new.getLsbD 8 = false → write = .next (s.setEeChannel ch { c with chcr := new, phase := .idle })) ∧
    (new.getLsbD 8 = true → c.chcr.getLsbD 8 = true → write = .next (s.setEeChannel ch { c with chcr := new })) ∧
    (new.getLsbD 8 = true → c.chcr.getLsbD 8 = false →
      (mode = 0 → write = .next (s.setEeChannel ch { c with chcr := new, phase := .active, chainEnd := true })) ∧
      (mode = 1 → fromMemory → write = .next (s.setEeChannel ch
        { c with chcr := new, chainEnd := false, phase := if c.qwc = 0 then .tagFetch else .active })) ∧
      (mode = 1 → ¬ fromMemory → write = .refused (.dmaMode .ee ch.val .destChain)) ∧
      (mode = 2 → write = .refused (.dmaMode .ee ch.val .interleave)) ∧
      (mode = 3 → write = .fault (.dmaBadControl .ee ch.val new)))) ∧
  (∀ (s : State) (ch : Fin 13) (v : Quad),
    let c := s.iopChannel ch
    let new : Word := v.setWidth 32
    let base := if ch.val < 7 then 0x1F801080 + 0x10 * ch.val else 0x1F801500 + 0x10 * (ch.val - 7)
    let write := mmioWrite .iop s (BitVec.ofNat 32 (base + 8)) 4 v
    let size := c.bcr.toNat % 0x10000
    (new.getLsbD 24 = false → write = .next (s.setIopChannel ch { c with chcr := new, phase := .idle })) ∧
    (new.getLsbD 24 = true → c.chcr.getLsbD 24 = true → write = .next (s.setIopChannel ch { c with chcr := new })) ∧
    (new.getLsbD 24 = true → c.chcr.getLsbD 24 = false →
      (new.extractLsb' 9 2 = 0 → write = .next (s.setIopChannel ch { c with
        chcr := new, phase := .active, remaining := BitVec.ofNat 32 (if size = 0 then 0x10000 else size) })) ∧
      (new.extractLsb' 9 2 = 1 → write = .next (s.setIopChannel ch { c with
        chcr := new, phase := .active, remaining := BitVec.ofNat 32 (size * (c.bcr.toNat / 0x10000)) })) ∧
      (new.extractLsb' 9 2 = 2 ∨ new.extractLsb' 9 2 = 3 →
        write = .refused (.dmaMode .iop ch.val (.iopSync (new.extractLsb' 9 2))))))

/-- An EE channel started for a direct transfer of `n` quadwords, alone, with every quadword it moves mapped, is still
running after every tick before the n-th and is done from tick n on, or from its first tick on where n is 0, whatever
further ticks follow: its start bit is clear, its bit of D_STAT is set, its QWC is 0 and its MADR is 16 n further
(60_exceptions.md R491, R497, R498). The data (R492): from memory to a port, the quadwords of memory are appended, in
order, to the output history and memory is as it was; from a port to memory, the n draws stand at the n addresses, a
byte that several quadwords hit holding the last of them, and no other byte changes; channels 8 and 9 move SADR on
within the scratchpad and in each tick copy one quadword, out of the scratchpad or into it, and change no other byte. A
transfer whose quadword `m` has no page, or no writable one where it is written, moves the `m` quadwords before it and
then stops the block with UnmappedAccess (20_memory.md R134); bit 31 of an address selects the scratchpad, which every
address reaches. That dma_in is one sequence of draws, taken in order, is the model's choice of notes/assumptions/5.md.
-/
def Obligations.EeDmaTransferCompletesInTickN : Prop :=
  -- the memory path
  (∀ (write : Bool) (addr : Word),
    (addr.getLsbD 31 = true → eeDmaKey write addr = some (0x70000000 + (addr &&& 0x00003FF0#32).toNat)) ∧
    (addr.getLsbD 31 = false → pageEntry .ee addr = none → eeDmaKey write addr = none) ∧
    (addr.getLsbD 31 = false → ∀ r, pageEntry .ee addr = some r →
      eeDmaKey write addr = if write = true ∧ r.writable = false then none else some (regionKey r addr))) ∧
  -- a quadword that cannot be moved
  (∀ (s : State) (ch : Fin 10) (n m : Nat), m < n →
    let c := s.eeChannel ch
    let toMemory := !eeFromMemory ch c.chcr
    c.chcr.getLsbD 8 = true → c.phase = .active → c.qwc.toNat = n →
    (∀ ch', ch' ≠ ch → (s.eeChannel ch').chcr.getLsbD 8 = false) →
    (∀ k, k < m → (eeDmaKey toMemory (c.madr + BitVec.ofNat 32 (16 * k))).isSome = true) →
    eeDmaKey toMemory (c.madr + BitVec.ofNat 32 (16 * m)) = none →
    (∃ t, eeDmacRun m s = .next t ∧ (t.eeChannel ch).qwc.toNat = n - m) ∧
    ∀ k, m < k → eeDmacRun k s = .fault (.unmappedAccess (c.madr + BitVec.ofNat 32 (16 * m)) 16 toMemory)) ∧
  -- a transfer that completes
  ∀ (s : State) (ch : Fin 10) (n : Nat) (keys : Nat → Nat),
    let c := s.eeChannel ch
    let spr (k : Nat) : Nat := 0x70000000 + ((c.sadr + BitVec.ofNat 32 (16 * k)) &&& 0x00003FF0#32).toNat
    c.chcr.getLsbD 8 = true → c.phase = .active → c.chainEnd = true → c.qwc.toNat = n →
    (∀ ch', ch' ≠ ch → (s.eeChannel ch').chcr.getLsbD 8 = false) →
    (∀ k, k < n → eeDmaKey (!eeFromMemory ch c.chcr) (c.madr + BitVec.ofNat 32 (16 * k)) = some (keys k)) →
    (∀ k, k < n → ∃ t, eeDmacRun k s = .next t ∧ (t.eeChannel ch).chcr = c.chcr ∧
      (t.eeChannel ch).qwc.toNat = n - k ∧ t.eeDmac.dStat = s.eeDmac.dStat ∧
      -- the quadword that channels 8 and 9 copy in the next tick
      (8 ≤ ch.val → ∃ u, eeDmacRun (k + 1) s = .next u ∧
        let src := if ch.val = 8 then spr k else keys k
        let dst := if ch.val = 8 then keys k else spr k
        ∀ b, u.mem.read b = if dst ≤ b ∧ b < dst + 16 then t.mem.read (src + (b - dst)) else t.mem.read b)) ∧
    ∃ t, (∀ k, max n 1 ≤ k → eeDmacRun k s = .next t) ∧
      (∀ j, j < 32 → (t.eeChannel ch).chcr.getLsbD j = if j = 8 then false else c.chcr.getLsbD j) ∧
      (t.eeChannel ch).phase = .idle ∧ (t.eeChannel ch).qwc = 0 ∧
      (t.eeChannel ch).madr = c.madr + BitVec.ofNat 32 (16 * n) ∧
      (∀ j, j < 32 → t.eeDmac.dStat.getLsbD j = if j = ch.val then true else s.eeDmac.dStat.getLsbD j) ∧
      (∀ ch', ch' ≠ ch → t.eeChannel ch' = s.eeChannel ch') ∧
      -- from memory to a port
      (ch.val < 8 → eeFromMemory ch c.chcr = true → t.mem = s.mem ∧ t.draws = s.draws ∧
        t.dmaOut = s.dmaOut ++ (List.range n).map (fun k => .quad ch.val (s.mem.readLE (keys k) 16))) ∧
      -- from a port to memory
      (ch.val < 8 → eeFromMemory ch c.chcr = false → t.dmaOut = s.dmaOut ∧ t.draws = s.draws + n ∧
        (∀ k, k < n → ∀ i, i < 16 →
          (∀ k', k < k' → k' < n → keys k + i < keys k' ∨ keys k' + 16 ≤ keys k + i) →
          t.mem.read (keys k + i) = (Config.draw (s.draws + k)).extractLsb' (8 * i) 8) ∧
        (∀ b, (∀ k, k < n → b < keys k ∨ keys k + 16 ≤ b) → t.mem.read b = s.mem.read b)) ∧
      -- scratchpad to memory and memory to scratchpad
      (8 ≤ ch.val → t.dmaOut = s.dmaOut ∧ t.draws = s.draws ∧
        (t.eeChannel ch).sadr = if n = 0 then c.sadr else (c.sadr + BitVec.ofNat 32 (16 * n)) &&& 0x00003FF0#32) ∧
      (ch.val = 8 →
        (∀ b, (∀ k, k < n → b < keys k ∨ keys k + 16 ≤ b) → t.mem.read b = s.mem.read b) ∧
        ((∀ k, k < n → keys k + 16 ≤ 0x70000000) → ∀ k, k < n → ∀ i, i < 16 →
          (∀ k', k < k' → k' < n → keys k + i < keys k' ∨ keys k' + 16 ≤ keys k + i) →
          t.mem.read (keys k + i) = s.mem.read (spr k + i))) ∧
      (ch.val = 9 →
        (∀ b, (∀ k, k < n → b < spr k ∨ spr k + 16 ≤ b) → t.mem.read b = s.mem.read b) ∧
        ((∀ k, k < n → keys k + 16 ≤ 0x70000000) → (c.sadr &&& 0x00003FF0#32).toNat + 16 * n ≤ 0x4000 →
          ∀ k, k < n → t.mem.readLE (spr k) 16 = s.mem.readLE (keys k) 16))

/-- A tag fetch: the channel takes the tag's QWC and its bits 31:16, MADR, TADR, the address stack and chain_end as the
tag's ID says, its IRQ bit ends the chain where TIE is 1, TTE forwards it, and the phase is Active; a call on a full
stack faults (60_exceptions.md R493, R494, R495). A tag whose address has no page stops the block with UnmappedAccess
(20_memory.md R134). Between tags (R491): an Active tick of a channel whose chain has not ended goes back to TagFetch
exactly where no quadword is left, at once where the tag gave none, and never completes. -/
def Obligations.EeTagFetchAppliesTheTag : Prop :=
  (∀ (s : State) (ch : Fin 10),
    let c := s.eeChannel ch
    c.chcr.getLsbD 8 = true →
    (c.phase = .tagFetch → c.tadr.getLsbD 31 = false → pageEntry .ee c.tadr = none →
      eeChannelTick ch s = .fault (.unmappedAccess c.tadr 16 false)) ∧
    (c.phase = .active → c.chainEnd = false →
      (c.qwc = 0 → eeChannelTick ch s = .next (s.setEeChannel ch { c with phase := .tagFetch })) ∧
      ∀ t, eeChannelTick ch s = .next t →
        (t.eeChannel ch).phase = (if (t.eeChannel ch).qwc = 0 then .tagFetch else .active) ∧
        (t.eeChannel ch).chcr = c.chcr ∧ t.eeDmac.dStat = s.eeDmac.dStat)) ∧
  ∀ (s : State) (ch : Fin 10) (key : Nat),
    let c := s.eeChannel ch
    c.chcr.getLsbD 8 = true → c.phase = .tagFetch → c.chainEnd = false → eeDmaKey false c.tadr = some key →
    let tag := s.mem.readLE key 16
    let id := tag.extractLsb' 28 3
    let addr : Word := tag.extractLsb' 32 32 &&& 0xFFFFFFF0#32
    let next := c.tadr + 16
    let after := c.tadr + 16 + BitVec.ofNat 32 (16 * (tag.toNat % 0x10000))
    let chcr : Word := (c.chcr &&& 0x0000FFFF#32) ||| (tag.extractLsb' 0 32 &&& 0xFFFF0000#32)
    let asp := (c.chcr >>> 4).toNat % 4
    let aspIs (k : Word) : Word := (chcr &&& 0xFFFFFFCF#32) ||| (k <<< 4)
    let ends := tag.getLsbD 31 && c.chcr.getLsbD 7
    let d : EeChannel := { c with qwc := tag.extractLsb' 0 16, chcr := chcr, phase := .active, chainEnd := ends }
    let gives (e : EeChannel) : Prop := ∃ t, eeChannelTick ch s = .next t ∧ t.eeChannel ch = e ∧
      t = { s.setEeChannel ch e with
        dmaOut := if c.chcr.getLsbD 6 && decide (ch.val < 8) then s.dmaOut ++ [.quad ch.val tag] else s.dmaOut }
    (id = 0 → gives { d with madr := addr, tadr := next, chainEnd := true }) ∧
    (id = 1 → gives { d with madr := next, tadr := after }) ∧
    (id = 2 → gives { d with madr := next, tadr := addr }) ∧
    (id = 3 ∨ id = 4 → gives { d with madr := addr, tadr := next }) ∧
    (id = 5 → asp = 0 → gives { d with madr := next, tadr := addr, asr0 := after, chcr := aspIs 1 }) ∧
    (id = 5 → asp = 1 → gives { d with madr := next, tadr := addr, asr1 := after, chcr := aspIs 2 }) ∧
    (id = 5 → asp = 2 → eeChannelTick ch s = .fault (.dmaBadControl .ee ch.val chcr)) ∧
    (id = 6 → asp = 0 → gives { d with madr := next, chainEnd := true }) ∧
    (id = 6 → asp = 1 → gives { d with madr := next, tadr := c.asr0, chcr := aspIs 0 }) ∧
    (id = 6 → asp = 2 → gives { d with madr := next, tadr := c.asr1, chcr := aspIs 1 }) ∧
    (id = 7 → gives { d with madr := next, chainEnd := true })

/-- An IOP channel started for `n` words, alone, with every byte it moves mapped, runs in every tick before the n-th
and is done from tick n on, or from its first tick on where n is 0: its start and trigger bits are clear, its flag of
DICR or DICR2 is set, and source 3 of the IOP INTC is requested where the line is then 1 (60_exceptions.md R523, R524,
R526). The data, from an aligned MADR on (R523): with DIR = 1 the n words of memory are appended, in order, to the
output history and memory is as it was; with DIR = 0 the n draws stand at the n addresses, a byte that several words
hit holding the last of them, and no other byte changes. A transfer whose word `m` has a byte with no page, or no
writable one where it is written, moves the `m` words before it and then stops the block with UnmappedAccess
(20_memory.md R134). That dma_in is one sequence of draws, taken in order, is the model's choice of
notes/assumptions/5.md; that a MADR which is no multiple of 4 looks up each byte of its word is that of
notes/assumptions/11.md. -/
def Obligations.IopDmaTransferCompletesInTickN : Prop :=
  -- the memory path
  (∀ (write : Bool) (addr : Word),
    (pageEntry .iop addr = none → iopDmaByteKey write addr = none) ∧
    (∀ r, pageEntry .iop addr = some r →
      iopDmaByteKey write addr = if write = true ∧ r.writable = false then none else some (regionKey r addr))) ∧
  -- a word that cannot be moved
  (∀ (s : State) (ch : Fin 13) (n m : Nat), m < n →
    let c := s.iopChannel ch
    let toMemory := !c.chcr.getLsbD 0
    let address (k : Nat) : Word :=
      if c.chcr.getLsbD 1 then c.madr - BitVec.ofNat 32 (4 * k) else c.madr + BitVec.ofNat 32 (4 * k)
    c.chcr.getLsbD 24 = true → c.phase = .active → c.remaining.toNat = n →
    (∀ ch', ch' ≠ ch → (s.iopChannel ch').chcr.getLsbD 24 = false) →
    (∀ k, k < m → ∀ j, j < 4 → (iopDmaByteKey toMemory (address k + BitVec.ofNat 32 j)).isSome = true) →
    (∃ j, j < 4 ∧ iopDmaByteKey toMemory (address m + BitVec.ofNat 32 j) = none) →
    (∃ t, iopDmacRun m s = .next t ∧ (t.iopChannel ch).remaining.toNat = n - m) ∧
    ∀ k, m < k → iopDmacRun k s = .fault (.unmappedAccess (address m) 4 toMemory)) ∧
  -- a transfer that completes
  ∀ (s : State) (ch : Fin 13) (n : Nat) (keys : Nat → Nat → Nat),
    let c := s.iopChannel ch
    c.chcr.getLsbD 24 = true → c.phase = .active → c.remaining.toNat = n →
    (∀ ch', ch' ≠ ch → (s.iopChannel ch').chcr.getLsbD 24 = false) →
    let address (k : Nat) : Word :=
      if c.chcr.getLsbD 1 then c.madr - BitVec.ofNat 32 (4 * k) else c.madr + BitVec.ofNat 32 (4 * k)
    (∀ k, k < n → ∀ j, j < 4 →
      iopDmaByteKey (!c.chcr.getLsbD 0) (address k + BitVec.ofNat 32 j) = some (keys k j)) →
    (∀ k, k < n → ∃ t, iopDmacRun k s = .next t ∧ (t.iopChannel ch).chcr = c.chcr ∧
      (t.iopChannel ch).remaining.toNat = n - k ∧ (t.iopChannel ch).madr = address k ∧
      t.iopDmac.dicr = s.iopDmac.dicr ∧ t.iopDmac.dicr2 = s.iopDmac.dicr2) ∧
    ∃ t, (∀ k, max n 1 ≤ k → iopDmacRun k s = .next t) ∧
      (∀ j, j < 32 → (t.iopChannel ch).chcr.getLsbD j = if j = 24 ∨ j = 28 then false else c.chcr.getLsbD j) ∧
      (t.iopChannel ch).phase = .idle ∧ (t.iopChannel ch).remaining = 0 ∧ (t.iopChannel ch).madr = address n ∧
      (∀ j, j < 32 → t.iopDmac.dicr.getLsbD j =
        if ch.val ≤ 6 ∧ j = 24 + ch.val then true else s.iopDmac.dicr.getLsbD j) ∧
      (∀ j, j < 32 → t.iopDmac.dicr2.getLsbD j =
        if 7 ≤ ch.val ∧ j = 24 + ch.val - 7 then true else s.iopDmac.dicr2.getLsbD j) ∧
      (∀ j, j < 32 → t.iopIntc.stat.getLsbD j =
        if j = 3 ∧ iopDmacLine t.iopDmac.dicr t.iopDmac.dicr2 = true then true else s.iopIntc.stat.getLsbD j) ∧
      (∀ ch', ch' ≠ ch → t.iopChannel ch' = s.iopChannel ch') ∧
      -- from memory to the port
      (c.madr.toNat % 4 = 0 → c.chcr.getLsbD 0 = true → t.mem = s.mem ∧ t.draws = s.draws ∧
        t.dmaOut = s.dmaOut ++ (List.range n).map (fun k => .word ch.val (s.mem.read (keys k 3) ++
          s.mem.read (keys k 2) ++ s.mem.read (keys k 1) ++ s.mem.read (keys k 0)))) ∧
      -- from the port to memory
      (c.madr.toNat % 4 = 0 → c.chcr.getLsbD 0 = false → t.dmaOut = s.dmaOut ∧ t.draws = s.draws + n ∧
        (∀ k, k < n → ∀ j, j < 4 → (∀ k', k < k' → k' < n → ∀ j', j' < 4 → keys k' j' ≠ keys k j) →
          t.mem.read (keys k j) = (Config.draw (s.draws + k)).extractLsb' (8 * j) 8) ∧
        (∀ b, (∀ k, k < n → ∀ j, j < 4 → keys k j ≠ b) → t.mem.read b = s.mem.read b))

/-- One count of an EE timer, of an IOP timer and of the EE's Count: the new count, the flags and the interrupt
requests; nothing else changes (60_exceptions.md R544, R573, R561). One bus cycle of the EE timers: each of the four, by
its own registers, counts where CUE is 1, CLKS is not 3 and its prescaler reaches 1, 16 or 256, which clears the
prescaler; else an enabled timer's prescaler moves on, and a stopped timer or one that waits for hblank is as it was
(R543). One IOP cycle: each of the six IOP timers counts once (R572). That the prescaler has no width and is compared by
equality is the model's choice of notes/assumptions/9.md. -/
def Obligations.TimersAndCountAdvance : Prop :=
  (∀ (s : State) (n : Fin 4),
    let t := s.eeTimer n
    let count := t.count + 1
    let equal := decide (count = t.comp)
    let setEqual := equal && t.mode.getLsbD 8 && !t.mode.getLsbD 10
    let setOverflow := decide (t.count = 0xFFFF#16) && t.mode.getLsbD 9 && !t.mode.getLsbD 11
    ∃ (m : Word) (st : BitVec 15), eeTimerIncrement n s =
        { s.setEeTimer n { t with count := if equal && t.mode.getLsbD 6 then 0 else count, mode := m } with
          eeIntc := { s.eeIntc with stat := st } } ∧
      (∀ j, j < 32 → m.getLsbD j =
        if j = 10 then t.mode.getLsbD 10 || setEqual
        else if j = 11 then t.mode.getLsbD 11 || setOverflow
        else t.mode.getLsbD j) ∧
      ∀ j, j < 15 → st.getLsbD j =
        if j = 9 + n.val then s.eeIntc.stat.getLsbD j || setEqual || setOverflow else s.eeIntc.stat.getLsbD j) ∧
  (∀ (s : State) (n : Fin 6),
    let t := s.iopTimer n
    let max : Word := if n.val < 3 then 0x0000FFFF#32 else 0xFFFFFFFF#32
    let source : Nat := if n.val < 3 then 4 + n.val else 14 + (n.val - 3)
    let count := (t.count + 1) &&& max
    let equal := decide (count = t.target)
    let overflow := decide (t.count = max)
    let event := (equal && t.mode.getLsbD 4) || (overflow && t.mode.getLsbD 5)
    let request := event && (t.mode.getLsbD 6 || !t.mode.getLsbD 10)
    ∃ m st : Word, iopTimerIncrement n s =
        { s.setIopTimer n { t with count := if equal && t.mode.getLsbD 3 then 0 else count, mode := m } with
          iopIntc := { s.iopIntc with stat := st } } ∧
      (∀ j, j < 32 → m.getLsbD j =
        if j = 10 then t.mode.getLsbD 10 || event
        else if j = 11 then t.mode.getLsbD 11 || equal
        else if j = 12 then t.mode.getLsbD 12 || overflow
        else t.mode.getLsbD j) ∧
      ∀ j, j < 32 → st.getLsbD j =
        if j = source then s.iopIntc.stat.getLsbD j || request else s.iopIntc.stat.getLsbD j) ∧
  (∀ s : State,
    let clks (n : Fin 4) : BitVec 2 := (s.eeTimer n).mode.extractLsb' 0 2
    let runs (n : Fin 4) : Bool := (s.eeTimer n).mode.getLsbD 7 && clks n != 3
    let div (n : Fin 4) : Nat := if clks n = 0 then 1 else if clks n = 1 then 16 else 256
    let counts (n : Fin 4) : Bool := runs n && decide ((s.eeTimer n).pre + 1 = div n)
    let counted (n : Fin 4) : State := eeTimerIncrement n (s.setEeTimer n { s.eeTimer n with pre := 0 })
    let t := eeTimersCycle s
    (∀ n, t.eeTimer n =
      if counts n then (counted n).eeTimer n
      else if runs n then { s.eeTimer n with pre := (s.eeTimer n).pre + 1 }
      else s.eeTimer n) ∧
    (∀ n : Fin 4, t.eeIntc.stat.getLsbD (9 + n.val) =
      if counts n then (counted n).eeIntc.stat.getLsbD (9 + n.val) else s.eeIntc.stat.getLsbD (9 + n.val)) ∧
    (∀ j, j < 9 ∨ 13 ≤ j → t.eeIntc.stat.getLsbD j = s.eeIntc.stat.getLsbD j) ∧
    t.eeIntc.mask = s.eeIntc.mask ∧
    { t with eeTimers := s.eeTimers, eeIntc := s.eeIntc } = s) ∧
  (∀ s : State,
    let source (n : Fin 6) : Nat := if n.val < 3 then 4 + n.val else 14 + (n.val - 3)
    let t := iopTimersCycle s
    (∀ n, t.iopTimer n = (iopTimerIncrement n s).iopTimer n) ∧
    (∀ n, t.iopIntc.stat.getLsbD (source n) = (iopTimerIncrement n s).iopIntc.stat.getLsbD (source n)) ∧
    (∀ j, (∀ n, j ≠ source n) → t.iopIntc.stat.getLsbD j = s.iopIntc.stat.getLsbD j) ∧
    t.iopIntc.mask = s.iopIntc.mask ∧ t.iopIntc.ctrl = s.iopIntc.ctrl ∧
    { t with iopTimers := s.iopTimers, iopIntc := s.iopIntc } = s) ∧
  (∀ s : State, (s.cpu = .iop → countTick s = s) ∧
    (s.cpu = .ee → ∃ w : Word,
      countTick s = { s with ee := { s.ee with count := s.ee.count + 1, ctl := { s.ee.ctl with cause := w } } } ∧
      ∀ j, j < 32 → w.getLsbD j =
        if j = 15 then s.ee.ctl.cause.getLsbD 15 || decide (s.ee.count + 1 = s.ee.compare)
        else s.ee.ctl.cause.getLsbD j))

/-- Adding an event to a sorted queue puts it after every event whose deadline is not greater than its own and before
the rest, so ties keep their order; cancelling an id removes exactly its events; the due head is the event that fires:
VblankStart and VblankEnd request their two sources, Hblank counts the hblank timers, each re-schedules itself, and
with none due the quantum ends (60_exceptions.md R581, R582, R583, R591, R592). The model's choices: deadlines are
`now` plus the delay modulo 2^64, compared unsigned, and one due event fires a step (notes/assumptions/14.md); at the
end of a frame the next one begins, with `elapsed` 0 (notes/assumptions/4.md). -/
def Obligations.SchedulerOrdersAndFiresEvents : Prop :=
  (∀ (s : State) (delay : Nat) (id : Option Nat) (kind : EventKind),
    s.sched.queue.Pairwise (fun e f => e.deadline.toNat ≤ f.deadline.toNat) →
    let e : Event := { deadline := s.sched.now + BitVec.ofNat 64 delay, id := id, kind := kind }
    s.addEvent delay id kind = { s with sched := { s.sched with
      queue := s.sched.queue.filter (fun f => decide (f.deadline.toNat ≤ e.deadline.toNat)) ++ [e] ++
        s.sched.queue.filter (fun f => decide (e.deadline.toNat < f.deadline.toNat)) } }) ∧
  (∀ (s : State) (id : Nat) (e : Event), (e ∈ (s.cancelEvent id).sched.queue ↔ e ∈ s.sched.queue ∧ e.id ≠ some id) ∧
    (s.cancelEvent id).sched.queue.Sublist s.sched.queue) ∧
  (∀ (s : State) (e : Event) (q : List Event), s.turn = .events → s.sched.queue = e :: q →
    e.deadline.toNat ≤ s.sched.now.toNat → ∃ t, step s = .next t ∧ t.turn = .events ∧
      match e.kind with
      | .vblankStart => t = { s with
          sched := { s.sched with queue := insertEvent ⟨s.sched.now + 4915200#64, none, .vblankStart⟩ q }
          eeIntc := { s.eeIntc with stat := s.eeIntc.stat ||| 0x0004#15 }
          iopIntc := { s.iopIntc with stat := s.iopIntc.stat ||| 0x00000001#32 } }
      | .vblankEnd => t = { s with
          sched := { s.sched with queue := insertEvent ⟨s.sched.now + 4915200#64, none, .vblankEnd⟩ q }
          eeIntc := { s.eeIntc with stat := s.eeIntc.stat ||| 0x0008#15 }
          iopIntc := { s.iopIntc with stat := s.iopIntc.stat ||| 0x00000800#32 } }
      | .hblank =>
        t.sched = { s.sched with queue := insertEvent ⟨s.sched.now + 9362#64, none, .hblank⟩ q } ∧
        (∀ n, t.eeTimer n = if (s.eeTimer n).mode.getLsbD 7 && (s.eeTimer n).mode.extractLsb' 0 2 == 3
          then (eeTimerIncrement n s).eeTimer n else s.eeTimer n) ∧
        (∀ n : Fin 4, t.eeIntc.stat.getLsbD (9 + n.val) =
          if (s.eeTimer n).mode.getLsbD 7 && (s.eeTimer n).mode.extractLsb' 0 2 == 3
          then (eeTimerIncrement n s).eeIntc.stat.getLsbD (9 + n.val) else s.eeIntc.stat.getLsbD (9 + n.val)) ∧
        (∀ j, j < 9 ∨ 13 ≤ j → t.eeIntc.stat.getLsbD j = s.eeIntc.stat.getLsbD j) ∧
        t.eeIntc.mask = s.eeIntc.mask ∧
        { t with sched := s.sched, eeTimers := s.eeTimers, eeIntc := s.eeIntc } = s) ∧
  (∀ s : State, s.turn = .events → (∀ e, s.sched.queue.head? = some e → s.sched.now.toNat < e.deadline.toNat) →
    step s = .next { s with
      turn := .cpu .ee
      ticks := 0
      elapsed := if s.elapsed + 32 < 4915200 then s.elapsed + 32 else 0 })

/-- The phases of a quantum, each from its start: 32 EE steps, then 16 EE DMAC ticks, 16 EE timer cycles, 4 IOP steps,
4 IOP DMAC ticks, 4 IOP timer cycles and one scheduler phase, which takes the external requests of this quantum and
moves `now` by 32, then the due events: after `k` steps the driver stands at the k-th position of the phase, after all
of them at the start of the next (60_exceptions.md R453, R582, R583). A step in a device's turn is one tick of that
device (R471, R543, R572), which stops the block where the tick stops: a DMAC's tick services its channels in index
order, each on the state the one before left, and leaves a channel whose start bit is clear alone. The position in
State and the list of external requests are the model's choices of notes/assumptions/3.md and 6.md. -/
def Obligations.QuantumGivesEveryAgentItsShare : Prop :=
  (∀ (s t : State) (agent next : Turn) (n k : Nat),
    (agent, n, next) ∈ [(Turn.cpu .ee, 32, Turn.eeDmac), (.eeDmac, 16, .eeTimers), (.eeTimers, 16, .cpu .iop),
      (.cpu .iop, 4, .iopDmac), (.iopDmac, 4, .iopTimers), (.iopTimers, 4, .scheduler), (.scheduler, 1, .events)] →
    s.turn = agent → s.ticks = 0 → runSteps k s = .next t →
    (k < n → t.turn = agent ∧ t.ticks = k) ∧ (k = n → t.turn = next ∧ t.ticks = 0)) ∧
  -- a step in a device's turn
  (∀ s : State,
    let moved (n : Nat) (next : Turn) (t : State) : State :=
      if s.ticks + 1 < n then { t with ticks := s.ticks + 1 } else { t with turn := next, ticks := 0 }
    (s.turn = .eeDmac → step s = andThen (eeDmacTick s) fun t => .next (moved 16 .eeTimers t)) ∧
    (s.turn = .eeTimers → step s = .next (moved 16 (.cpu .iop) (eeTimersCycle s))) ∧
    (s.turn = .iopDmac → step s = andThen (iopDmacTick s) fun t => .next (moved 4 .iopTimers t)) ∧
    (s.turn = .iopTimers → step s = .next (moved 4 .scheduler (iopTimersCycle s)))) ∧
  (∀ s : State,
    eeDmacTick s = (List.finRange 10).foldl (fun o ch => andThen o (eeChannelTick ch)) (.next s) ∧
    iopDmacTick s = (List.finRange 13).foldl (fun o ch => andThen o (iopChannelTick ch)) (.next s) ∧
    (∀ ch, (s.eeChannel ch).chcr.getLsbD 8 = false → eeChannelTick ch s = .next s) ∧
    (∀ ch, (s.iopChannel ch).chcr.getLsbD 24 = false → iopChannelTick ch s = .next s)) ∧
  (∀ s : State, s.turn = .scheduler → ∃ t, step s = .next t ∧
    t.sched = { s.sched with now := s.sched.now + 32#64 } ∧ t.extIrq = s.extIrq.tail ∧
    (∀ j : Fin 15, t.eeIntc.stat.getLsbD j =
      (s.eeIntc.stat.getLsbD j || decide (IrqRequest.ee j ∈ s.extIrq.headD []))) ∧
    (∀ j : Fin 26, t.iopIntc.stat.getLsbD j =
      (s.iopIntc.stat.getLsbD j || decide (IrqRequest.iop j ∈ s.extIrq.headD []))) ∧
    t.ee = s.ee ∧ t.iop = s.iop ∧ t.mem = s.mem ∧ t.eeIntc.mask = s.eeIntc.mask ∧ t.iopIntc.mask = s.iopIntc.mask)

end
end

