-- ==== Sys2Proof/Laws/Bits.lean ====
section
/-! SUPPORT. The bit helpers bit by bit: `setBit`, `mergeBits`, and `Within` (00_scope.md R14, R15). -/

namespace Sys2Proof.Machine

/-- `Within`, bit by bit. -/
theorem within_iff {w : Nat} {mask v : BitVec w} :
    Within mask v ↔ ∀ j, (hj : j < w) → v[j] = true → mask[j] = true := by
  unfold Within
  constructor
  · intro h j hj hv
    have := congrArg (fun x : BitVec w => x.getLsbD j) h
    simpa [hj, BitVec.getLsbD_eq_getElem, hv] using this
  · intro h
    apply BitVec.eq_of_getElem_eq
    intro j hj
    have := h j hj
    cases hv : v[j] <;> cases hm : mask[j] <;> simp_all

theorem getElem_setBit (v : Word) (i : Nat) (b : Bool) (j : Nat) (hj : j < 32) :
    (setBit v i b)[j] = if j = i then b else v[j] := by
  have h1 : (1#32 <<< i : Word)[j] = decide (j = i) := by
    simp only [BitVec.getElem_shiftLeft]
    by_cases hlt : j < i
    · simp [hlt, show ¬ j = i by omega]
    · by_cases e : j = i
      · simp [e]
      · simp [hlt, e, show ¬ (j - i = 0) by omega]
  unfold setBit
  by_cases e : j = i
  · cases b <;> simp [BitVec.getElem_and, BitVec.getElem_or, BitVec.getElem_not, e]
  · cases b <;> simp [BitVec.getElem_and, BitVec.getElem_or, BitVec.getElem_not, h1, e]

theorem getElem_mergeBits (mask old new : Word) (j : Nat) (hj : j < 32) :
    (mergeBits mask old new)[j] = if mask[j] then new[j] else old[j] := by
  unfold mergeBits
  simp only [BitVec.getElem_and, BitVec.getElem_or, BitVec.getElem_not]
  cases mask[j] <;> simp

theorem within_setBit {mask v : Word} {i : Nat} {b : Bool} (h : Within mask v) (hm : mask.getLsbD i = true) :
    Within mask (setBit v i b) := by
  rw [within_iff] at h ⊢
  intro j hj hb
  rw [getElem_setBit] at hb
  by_cases e : j = i
  · subst e; rwa [BitVec.getLsbD_eq_getElem hj] at hm
  · rw [if_neg e] at hb; exact h j hj hb

theorem within_mergeBits {mask m old new : Word} (h : Within mask old) (hm : Within mask m) :
    Within mask (mergeBits m old new) := by
  rw [within_iff] at h hm ⊢
  intro j hj hb
  rw [getElem_mergeBits] at hb
  by_cases e : m[j] = true
  · exact hm j hj e
  · rw [if_neg e] at hb; exact h j hj hb

theorem within_and {w : Nat} {mask v m : BitVec w} (hm : Within mask m) : Within mask (v &&& m) := by
  rw [within_iff] at hm ⊢
  intro j hj hb
  rw [BitVec.getElem_and] at hb
  exact hm j hj (by cases h : m[j] <;> simp_all)

theorem within_of_within_left {w : Nat} {mask v m : BitVec w} (h : Within mask v) : Within mask (v &&& m) := by
  rw [within_iff] at h ⊢
  intro j hj hb
  rw [BitVec.getElem_and] at hb
  exact h j hj (by cases h' : v[j] <;> simp_all)

theorem within_or {w : Nat} {mask u v : BitVec w} (hu : Within mask u) (hv : Within mask v) :
    Within mask (u ||| v) := by
  rw [within_iff] at hu hv ⊢
  intro j hj hb
  rw [BitVec.getElem_or, Bool.or_eq_true] at hb
  exact hb.elim (hu j hj) (hv j hj)

theorem within_xor {w : Nat} {mask u v : BitVec w} (hu : Within mask u) (hv : Within mask v) :
    Within mask (u ^^^ v) := by
  rw [within_iff] at hu hv ⊢
  intro j hj hb
  rw [BitVec.getElem_xor] at hb
  cases h : u[j]
  · exact hv j hj (by simpa [h] using hb)
  · exact hu j hj h

/-- Two vectors share a bit exactly where some position holds one in both. -/
theorem and_ne_zero_eq_any {n : Nat} (a b : BitVec n) :
    (a &&& b != 0) = (List.range n).any fun j => a.getLsbD j && b.getLsbD j := by
  rw [Bool.eq_iff_iff, bne_iff_ne, List.any_eq_true]
  constructor
  · intro h
    by_contra hc
    refine h (BitVec.eq_of_getLsbD_eq fun i hi => ?_)
    have := fun hx => hc ⟨i, List.mem_range.2 hi, hx⟩
    simpa using this
  · rintro ⟨j, -, hj⟩ h
    simpa [hj] using congrArg (fun v => v.getLsbD j) h

end Sys2Proof.Machine
end

