-- ==== Sys2Proof/Laws/Memory.lean ====
section
/-! SUPPORT. The laws of memory: a read after a write, the canonical form kept by every memory operation, and
little-endian accesses in terms of bytes (20_memory.md R110, R111, R130). -/

namespace Sys2Proof.Machine

/-! ## Membership -/

theorem mem_erase {m : Memory} {a : Nat} {c : Host.Cell} : c ∈ m.erase a ↔ c ∈ m ∧ c.1 ≠ a := by
  simp [Memory.erase]

theorem mem_insert {m : Memory} {a : Nat} {v : Byte} {c : Host.Cell} :
    c ∈ m.insert a v ↔ c = (a, v) ∨ c ∈ m := by
  induction m with
  | nil => simp [Memory.insert]
  | cons d m ih =>
    obtain ⟨k, w⟩ := d
    unfold Memory.insert
    split
    · simp
    · simp only [List.mem_cons, ih]; tauto

/-- A cell of a written memory is a cell of the old one or the written cell. -/
theorem mem_write {m : Memory} {a : Nat} {v : Byte} {c : Host.Cell} (h : c ∈ m.write a v) : c ∈ m ∨ c.1 = a := by
  unfold Memory.write at h
  split at h
  · exact .inl (mem_erase.1 h).1
  · rcases mem_insert.1 h with rfl | h
    · exact .inr rfl
    · exact .inl (mem_erase.1 h).1

/-! ## Read after write -/

theorem read_of_not_mem {m : Memory} {a : Nat} (h : ∀ c ∈ m, c.1 ≠ a) : m.read a = unlistedByte := by
  induction m with
  | nil => rfl
  | cons c m ih =>
    obtain ⟨k, w⟩ := c
    have hk : k ≠ a := h (k, w) (by simp)
    simp only [Memory.read, if_neg hk]
    exact ih fun c hc => h c (by simp [hc])

theorem read_erase (m : Memory) (a b : Nat) :
    (m.erase a).read b = if b = a then unlistedByte else m.read b := by
  split
  · next h => subst h; exact read_of_not_mem fun c hc => (mem_erase.1 hc).2
  · next h =>
    induction m with
    | nil => rfl
    | cons c m ih =>
      obtain ⟨k, w⟩ := c
      by_cases hk : k = a
      · subst hk
        have hb : ¬ k = b := fun e => h e.symm
        simpa [Memory.erase, Memory.read, hb] using ih
      · have : ((k, w) :: m).filter (fun c => c.1 != a) = (k, w) :: m.filter (fun c => c.1 != a) := by simp [hk]
        simp only [Memory.erase, this, Memory.read] at ih ⊢
        rw [ih]

theorem read_insert {m : Memory} {a : Nat} (v : Byte) (b : Nat) (h : ∀ c ∈ m, c.1 ≠ a) :
    (m.insert a v).read b = if b = a then v else m.read b := by
  induction m with
  | nil => simp only [Memory.insert, Memory.read, eq_comm]
  | cons c m ih =>
    obtain ⟨k, w⟩ := c
    have hk : k ≠ a := h (k, w) (by simp)
    have ih := ih fun c hc => h c (by simp [hc])
    unfold Memory.insert
    split
    · simp only [Memory.read, eq_comm]
    · by_cases hb : k = b
      · subst hb; simp [Memory.read, hk]
      · simp [Memory.read, hb, ih]

/-- A read after a write: the byte written at its key, every other key as before. -/
@[simp] theorem read_write (m : Memory) (a b : Nat) (v : Byte) :
    (m.write a v).read b = if b = a then v else m.read b := by
  unfold Memory.write
  split
  · next h => rw [read_erase, h]
  · rw [read_insert v b fun c hc => (mem_erase.1 hc).2, read_erase]
    split <;> rfl

/-! ## The canonical form -/

/-- The empty memory, State.reset's, is in canonical form. -/
theorem wf_nil : Memory.wf [] := by simp [Memory.wf]

theorem wf_erase {m : Memory} (h : m.wf) (a : Nat) : (m.erase a).wf :=
  ⟨h.1.filter _, fun c hc => h.2 c (mem_erase.1 hc).1⟩

theorem wf_insert {m : Memory} {a : Nat} {v : Byte} (h : m.wf) (hv : v ≠ unlistedByte) (ha : ∀ c ∈ m, c.1 ≠ a) :
    (m.insert a v).wf := by
  refine ⟨?_, fun c hc => ?_⟩
  · have h1 := h.1
    clear h
    induction m with
    | nil => simp [Memory.insert]
    | cons d m ih =>
      obtain ⟨k, w⟩ := d
      rw [List.pairwise_cons] at h1
      unfold Memory.insert
      split
      · next hk =>
        refine List.pairwise_cons.2 ⟨fun c hc => ?_, List.pairwise_cons.2 h1⟩
        rcases List.mem_cons.1 hc with rfl | hc
        · exact hk
        · exact Nat.lt_trans hk (h1.1 c hc)
      · next hk =>
        have hka : k ≠ a := ha (k, w) (by simp)
        refine List.pairwise_cons.2 ⟨fun c hc => ?_, ih (fun c hc => ha c (by simp [hc])) h1.2⟩
        rcases mem_insert.1 hc with rfl | hc
        · show k < a
          omega
        · exact h1.1 c hc
  · rcases mem_insert.1 hc with rfl | hc
    · exact hv
    · exact h.2 c hc

/-- A write keeps the canonical form. -/
theorem wf_write {m : Memory} (h : m.wf) (a : Nat) (v : Byte) : (m.write a v).wf := by
  unfold Memory.write
  split
  · exact wf_erase h a
  · next hv => exact wf_insert (wf_erase h a) hv fun c hc => (mem_erase.1 hc).2

theorem wf_writeLE {m : Memory} (h : m.wf) (a n : Nat) (v : Quad) : (m.writeLE a n v).wf := by
  induction n generalizing m a v with
  | zero => exact h
  | succ n ih => exact ih (wf_write h a _) _ _

theorem wf_writeBytes {m : Memory} (h : m.wf) (a : Nat) (bs : List Byte) : (m.writeBytes a bs).wf := by
  induction bs generalizing m a with
  | nil => exact h
  | cons b bs ih => exact ih (wf_write h a b) _

theorem mem_writeLE {m : Memory} {a n : Nat} {v : Quad} {c : Host.Cell} (h : c ∈ m.writeLE a n v) :
    c ∈ m ∨ (a ≤ c.1 ∧ c.1 < a + n) := by
  induction n generalizing m a v with
  | zero => exact .inl h
  | succ n ih =>
    rcases ih h with h | ⟨h1, h2⟩
    · rcases mem_write h with h | h
      · exact .inl h
      · right; omega
    · right; omega

/-! ## Little-endian accesses, byte by byte -/

/-- A write of `n` bytes leaves every key outside them alone. -/
theorem read_writeLE_other (m : Memory) (a n : Nat) (v : Quad) (b : Nat) (h : b < a ∨ a + n ≤ b) :
    (m.writeLE a n v).read b = m.read b := by
  induction n generalizing m a v with
  | zero => rfl
  | succ n ih =>
    rw [Memory.writeLE, ih _ _ _ (by omega), read_write, if_neg (by omega)]

/-- Byte `k` of an `n`-byte write is at key `a + k`. -/
theorem read_writeLE_same (m : Memory) (a n : Nat) (v : Quad) (k : Nat) (h : k < n) :
    (m.writeLE a n v).read (a + k) = v.extractLsb' (8 * k) 8 := by
  induction n generalizing m a v k with
  | zero => omega
  | succ n ih =>
    rw [Memory.writeLE]
    cases k with
    | zero =>
      rw [read_writeLE_other _ _ _ _ _ (by omega), read_write, if_pos (by omega)]
      ext i; simp
    | succ k =>
      have := ih (m.write a (v.setWidth 8)) (a + 1) (v >>> 8) k (by omega)
      rw [show a + (k + 1) = a + 1 + k by omega, this]
      ext i hi
      simp only [BitVec.getElem_extractLsb', BitVec.getLsbD_ushiftRight]
      congr 1; omega

/-- Bit `j` of a little-endian read is the bit of its byte, and 0 beyond the bytes read. -/
theorem getLsbD_readLE (m : Memory) (a n j : Nat) (hj : j < 128) :
    (m.readLE a n).getLsbD j = (decide (j < 8 * n) && (m.read (a + j / 8)).getLsbD (j % 8)) := by
  induction n generalizing a j with
  | zero => simp [Memory.readLE]
  | succ n ih =>
    simp only [Memory.readLE, BitVec.getLsbD_or, BitVec.getLsbD_shiftLeft, BitVec.getLsbD_setWidth, hj,
      decide_true, Bool.true_and]
    by_cases h8 : j < 8
    · have e : a + j / 8 = a := by omega
      simp [h8, e, Nat.mod_eq_of_lt h8, show j < 8 * (n + 1) by omega]
    · have hz : (m.read a).getLsbD j = false := BitVec.getLsbD_of_ge _ _ (by omega)
      have e1 : a + 1 + (j - 8) / 8 = a + j / 8 := by omega
      have e2 : (j - 8) % 8 = j % 8 := by omega
      have e3 : decide (j - 8 < 8 * n) = decide (j < 8 * (n + 1)) := by
        apply decide_eq_decide.2; omega
      rw [hz, ih (a + 1) (j - 8) (by omega), e1, e2, e3]
      simp [h8]

/-- Byte `k` of an `n`-byte read is the byte at key `a + k`. -/
theorem extract_readLE (m : Memory) (a n k : Nat) (h : k < n) (hn : n ≤ 16) :
    (m.readLE a n).extractLsb' (8 * k) 8 = m.read (a + k) := by
  apply BitVec.eq_of_getLsbD_eq
  intro i hi
  rw [BitVec.getLsbD_extractLsb', getLsbD_readLE _ _ _ _ (by omega)]
  have e1 : a + (8 * k + i) / 8 = a + k := by omega
  have e2 : (8 * k + i) % 8 = i := by omega
  simp [hi, e1, e2, show 8 * k + i < 8 * n by omega]

/-- Two reads agree where their bytes do. -/
theorem readLE_congr {m m' : Memory} {a a' n : Nat} (h : ∀ k, k < n → m.read (a + k) = m'.read (a' + k)) :
    m.readLE a n = m'.readLE a' n := by
  induction n generalizing a a' with
  | zero => rfl
  | succ n ih =>
    have h0 := h 0 (by omega)
    simp only [Nat.add_zero] at h0
    simp only [Memory.readLE, h0]
    have h1 : ∀ k, k < n → m.read (a + 1 + k) = m'.read (a' + 1 + k) := fun k hk => by
      rw [Nat.add_assoc, Nat.add_assoc, Nat.add_comm 1 k]; exact h (k + 1) (by omega)
    rw [ih h1]

/-- A read after a write of the same bytes gives the low `n` bytes of the value. -/
theorem readLE_writeLE_same (m : Memory) (a n : Nat) (v : Quad) :
    (m.writeLE a n v).readLE a n = (v.setWidth (8 * n)).setWidth 128 := by
  apply BitVec.eq_of_getLsbD_eq
  intro i hi
  rw [getLsbD_readLE _ _ _ _ hi]
  by_cases h : i < 8 * n
  · rw [read_writeLE_same _ _ _ _ _ (by omega : i / 8 < n)]
    simp only [BitVec.getLsbD_extractLsb', BitVec.getLsbD_setWidth, h, hi, show i % 8 < 8 by omega, decide_true,
      Bool.true_and]
    congr 1; omega
  · simp [h]

/-- A read is unchanged by a write of bytes it does not read. -/
theorem readLE_writeLE_other (m : Memory) (a n : Nat) (v : Quad) (b k : Nat) (h : b + k ≤ a ∨ a + n ≤ b) :
    (m.writeLE a n v).readLE b k = m.readLE b k :=
  readLE_congr fun j hj => read_writeLE_other _ _ _ _ _ (by omega)

end Sys2Proof.Machine
end

