-- ==== Sys2Proof/Laws/State.lean ====
section
/-! SUPPORT. The small lemmas of the record updates: one for each field an update leaves alone, each true by
definition, so that no later proof unfolds an update; and the executing CPU after each update. -/

namespace Sys2Proof.Machine

/-! ## `setEeReg` -/

@[simp] theorem setEeReg_iop (s : State) (i : Reg) (v : Quad) : (s.setEeReg i v).iop = s.iop := rfl
@[simp] theorem setEeReg_mem (s : State) (i : Reg) (v : Quad) : (s.setEeReg i v).mem = s.mem := rfl
@[simp] theorem setEeReg_eeIntc (s : State) (i : Reg) (v : Quad) : (s.setEeReg i v).eeIntc = s.eeIntc := rfl
@[simp] theorem setEeReg_iopIntc (s : State) (i : Reg) (v : Quad) : (s.setEeReg i v).iopIntc = s.iopIntc := rfl
@[simp] theorem setEeReg_eeDmac (s : State) (i : Reg) (v : Quad) : (s.setEeReg i v).eeDmac = s.eeDmac := rfl
@[simp] theorem setEeReg_iopDmac (s : State) (i : Reg) (v : Quad) : (s.setEeReg i v).iopDmac = s.iopDmac := rfl
@[simp] theorem setEeReg_eeTimers (s : State) (i : Reg) (v : Quad) : (s.setEeReg i v).eeTimers = s.eeTimers := rfl
@[simp] theorem setEeReg_iopTimers (s : State) (i : Reg) (v : Quad) : (s.setEeReg i v).iopTimers = s.iopTimers := rfl
@[simp] theorem setEeReg_sched (s : State) (i : Reg) (v : Quad) : (s.setEeReg i v).sched = s.sched := rfl
@[simp] theorem setEeReg_dmaOut (s : State) (i : Reg) (v : Quad) : (s.setEeReg i v).dmaOut = s.dmaOut := rfl
@[simp] theorem setEeReg_extWrites (s : State) (i : Reg) (v : Quad) : (s.setEeReg i v).extWrites = s.extWrites := rfl
@[simp] theorem setEeReg_extIrq (s : State) (i : Reg) (v : Quad) : (s.setEeReg i v).extIrq = s.extIrq := rfl
@[simp] theorem setEeReg_draws (s : State) (i : Reg) (v : Quad) : (s.setEeReg i v).draws = s.draws := rfl
@[simp] theorem setEeReg_turn (s : State) (i : Reg) (v : Quad) : (s.setEeReg i v).turn = s.turn := rfl
@[simp] theorem setEeReg_ticks (s : State) (i : Reg) (v : Quad) : (s.setEeReg i v).ticks = s.ticks := rfl
@[simp] theorem setEeReg_elapsed (s : State) (i : Reg) (v : Quad) : (s.setEeReg i v).elapsed = s.elapsed := rfl
@[simp] theorem setEeReg_cpu (s : State) (i : Reg) (v : Quad) : (s.setEeReg i v).cpu = s.cpu := rfl
@[simp] theorem setEeReg_ee_hi (s : State) (i : Reg) (v : Quad) : (s.setEeReg i v).ee.hi = s.ee.hi := rfl
@[simp] theorem setEeReg_ee_lo (s : State) (i : Reg) (v : Quad) : (s.setEeReg i v).ee.lo = s.ee.lo := rfl
@[simp] theorem setEeReg_ee_ctl (s : State) (i : Reg) (v : Quad) : (s.setEeReg i v).ee.ctl = s.ee.ctl := rfl
@[simp] theorem setEeReg_ee_errorEpc (s : State) (i : Reg) (v : Quad) : (s.setEeReg i v).ee.errorEpc = s.ee.errorEpc := rfl
@[simp] theorem setEeReg_ee_count (s : State) (i : Reg) (v : Quad) : (s.setEeReg i v).ee.count = s.ee.count := rfl
@[simp] theorem setEeReg_ee_compare (s : State) (i : Reg) (v : Quad) : (s.setEeReg i v).ee.compare = s.ee.compare := rfl

/-! ## `setIopReg` -/

@[simp] theorem setIopReg_ee (s : State) (i : Reg) (v : Word) : (s.setIopReg i v).ee = s.ee := rfl
@[simp] theorem setIopReg_mem (s : State) (i : Reg) (v : Word) : (s.setIopReg i v).mem = s.mem := rfl
@[simp] theorem setIopReg_eeIntc (s : State) (i : Reg) (v : Word) : (s.setIopReg i v).eeIntc = s.eeIntc := rfl
@[simp] theorem setIopReg_iopIntc (s : State) (i : Reg) (v : Word) : (s.setIopReg i v).iopIntc = s.iopIntc := rfl
@[simp] theorem setIopReg_eeDmac (s : State) (i : Reg) (v : Word) : (s.setIopReg i v).eeDmac = s.eeDmac := rfl
@[simp] theorem setIopReg_iopDmac (s : State) (i : Reg) (v : Word) : (s.setIopReg i v).iopDmac = s.iopDmac := rfl
@[simp] theorem setIopReg_eeTimers (s : State) (i : Reg) (v : Word) : (s.setIopReg i v).eeTimers = s.eeTimers := rfl
@[simp] theorem setIopReg_iopTimers (s : State) (i : Reg) (v : Word) : (s.setIopReg i v).iopTimers = s.iopTimers := rfl
@[simp] theorem setIopReg_sched (s : State) (i : Reg) (v : Word) : (s.setIopReg i v).sched = s.sched := rfl
@[simp] theorem setIopReg_dmaOut (s : State) (i : Reg) (v : Word) : (s.setIopReg i v).dmaOut = s.dmaOut := rfl
@[simp] theorem setIopReg_extWrites (s : State) (i : Reg) (v : Word) : (s.setIopReg i v).extWrites = s.extWrites := rfl
@[simp] theorem setIopReg_extIrq (s : State) (i : Reg) (v : Word) : (s.setIopReg i v).extIrq = s.extIrq := rfl
@[simp] theorem setIopReg_draws (s : State) (i : Reg) (v : Word) : (s.setIopReg i v).draws = s.draws := rfl
@[simp] theorem setIopReg_turn (s : State) (i : Reg) (v : Word) : (s.setIopReg i v).turn = s.turn := rfl
@[simp] theorem setIopReg_ticks (s : State) (i : Reg) (v : Word) : (s.setIopReg i v).ticks = s.ticks := rfl
@[simp] theorem setIopReg_elapsed (s : State) (i : Reg) (v : Word) : (s.setIopReg i v).elapsed = s.elapsed := rfl
@[simp] theorem setIopReg_cpu (s : State) (i : Reg) (v : Word) : (s.setIopReg i v).cpu = s.cpu := rfl
@[simp] theorem setIopReg_iop_hi (s : State) (i : Reg) (v : Word) : (s.setIopReg i v).iop.hi = s.iop.hi := rfl
@[simp] theorem setIopReg_iop_lo (s : State) (i : Reg) (v : Word) : (s.setIopReg i v).iop.lo = s.iop.lo := rfl
@[simp] theorem setIopReg_iop_ctl (s : State) (i : Reg) (v : Word) : (s.setIopReg i v).iop.ctl = s.iop.ctl := rfl

/-! ## `setEeHi` -/

@[simp] theorem setEeHi_iop (s : State) (v : Dword) : (s.setEeHi v).iop = s.iop := rfl
@[simp] theorem setEeHi_mem (s : State) (v : Dword) : (s.setEeHi v).mem = s.mem := rfl
@[simp] theorem setEeHi_eeIntc (s : State) (v : Dword) : (s.setEeHi v).eeIntc = s.eeIntc := rfl
@[simp] theorem setEeHi_iopIntc (s : State) (v : Dword) : (s.setEeHi v).iopIntc = s.iopIntc := rfl
@[simp] theorem setEeHi_eeDmac (s : State) (v : Dword) : (s.setEeHi v).eeDmac = s.eeDmac := rfl
@[simp] theorem setEeHi_iopDmac (s : State) (v : Dword) : (s.setEeHi v).iopDmac = s.iopDmac := rfl
@[simp] theorem setEeHi_eeTimers (s : State) (v : Dword) : (s.setEeHi v).eeTimers = s.eeTimers := rfl
@[simp] theorem setEeHi_iopTimers (s : State) (v : Dword) : (s.setEeHi v).iopTimers = s.iopTimers := rfl
@[simp] theorem setEeHi_sched (s : State) (v : Dword) : (s.setEeHi v).sched = s.sched := rfl
@[simp] theorem setEeHi_dmaOut (s : State) (v : Dword) : (s.setEeHi v).dmaOut = s.dmaOut := rfl
@[simp] theorem setEeHi_extWrites (s : State) (v : Dword) : (s.setEeHi v).extWrites = s.extWrites := rfl
@[simp] theorem setEeHi_extIrq (s : State) (v : Dword) : (s.setEeHi v).extIrq = s.extIrq := rfl
@[simp] theorem setEeHi_draws (s : State) (v : Dword) : (s.setEeHi v).draws = s.draws := rfl
@[simp] theorem setEeHi_turn (s : State) (v : Dword) : (s.setEeHi v).turn = s.turn := rfl
@[simp] theorem setEeHi_ticks (s : State) (v : Dword) : (s.setEeHi v).ticks = s.ticks := rfl
@[simp] theorem setEeHi_elapsed (s : State) (v : Dword) : (s.setEeHi v).elapsed = s.elapsed := rfl
@[simp] theorem setEeHi_cpu (s : State) (v : Dword) : (s.setEeHi v).cpu = s.cpu := rfl
@[simp] theorem setEeHi_ee_gpr (s : State) (v : Dword) : (s.setEeHi v).ee.gpr = s.ee.gpr := rfl
@[simp] theorem setEeHi_ee_lo (s : State) (v : Dword) : (s.setEeHi v).ee.lo = s.ee.lo := rfl
@[simp] theorem setEeHi_ee_ctl (s : State) (v : Dword) : (s.setEeHi v).ee.ctl = s.ee.ctl := rfl
@[simp] theorem setEeHi_ee_errorEpc (s : State) (v : Dword) : (s.setEeHi v).ee.errorEpc = s.ee.errorEpc := rfl
@[simp] theorem setEeHi_ee_count (s : State) (v : Dword) : (s.setEeHi v).ee.count = s.ee.count := rfl
@[simp] theorem setEeHi_ee_compare (s : State) (v : Dword) : (s.setEeHi v).ee.compare = s.ee.compare := rfl

/-! ## `setEeLo` -/

@[simp] theorem setEeLo_iop (s : State) (v : Dword) : (s.setEeLo v).iop = s.iop := rfl
@[simp] theorem setEeLo_mem (s : State) (v : Dword) : (s.setEeLo v).mem = s.mem := rfl
@[simp] theorem setEeLo_eeIntc (s : State) (v : Dword) : (s.setEeLo v).eeIntc = s.eeIntc := rfl
@[simp] theorem setEeLo_iopIntc (s : State) (v : Dword) : (s.setEeLo v).iopIntc = s.iopIntc := rfl
@[simp] theorem setEeLo_eeDmac (s : State) (v : Dword) : (s.setEeLo v).eeDmac = s.eeDmac := rfl
@[simp] theorem setEeLo_iopDmac (s : State) (v : Dword) : (s.setEeLo v).iopDmac = s.iopDmac := rfl
@[simp] theorem setEeLo_eeTimers (s : State) (v : Dword) : (s.setEeLo v).eeTimers = s.eeTimers := rfl
@[simp] theorem setEeLo_iopTimers (s : State) (v : Dword) : (s.setEeLo v).iopTimers = s.iopTimers := rfl
@[simp] theorem setEeLo_sched (s : State) (v : Dword) : (s.setEeLo v).sched = s.sched := rfl
@[simp] theorem setEeLo_dmaOut (s : State) (v : Dword) : (s.setEeLo v).dmaOut = s.dmaOut := rfl
@[simp] theorem setEeLo_extWrites (s : State) (v : Dword) : (s.setEeLo v).extWrites = s.extWrites := rfl
@[simp] theorem setEeLo_extIrq (s : State) (v : Dword) : (s.setEeLo v).extIrq = s.extIrq := rfl
@[simp] theorem setEeLo_draws (s : State) (v : Dword) : (s.setEeLo v).draws = s.draws := rfl
@[simp] theorem setEeLo_turn (s : State) (v : Dword) : (s.setEeLo v).turn = s.turn := rfl
@[simp] theorem setEeLo_ticks (s : State) (v : Dword) : (s.setEeLo v).ticks = s.ticks := rfl
@[simp] theorem setEeLo_elapsed (s : State) (v : Dword) : (s.setEeLo v).elapsed = s.elapsed := rfl
@[simp] theorem setEeLo_cpu (s : State) (v : Dword) : (s.setEeLo v).cpu = s.cpu := rfl
@[simp] theorem setEeLo_ee_gpr (s : State) (v : Dword) : (s.setEeLo v).ee.gpr = s.ee.gpr := rfl
@[simp] theorem setEeLo_ee_hi (s : State) (v : Dword) : (s.setEeLo v).ee.hi = s.ee.hi := rfl
@[simp] theorem setEeLo_ee_ctl (s : State) (v : Dword) : (s.setEeLo v).ee.ctl = s.ee.ctl := rfl
@[simp] theorem setEeLo_ee_errorEpc (s : State) (v : Dword) : (s.setEeLo v).ee.errorEpc = s.ee.errorEpc := rfl
@[simp] theorem setEeLo_ee_count (s : State) (v : Dword) : (s.setEeLo v).ee.count = s.ee.count := rfl
@[simp] theorem setEeLo_ee_compare (s : State) (v : Dword) : (s.setEeLo v).ee.compare = s.ee.compare := rfl

/-! ## `setIopHi` -/

@[simp] theorem setIopHi_ee (s : State) (v : Word) : (s.setIopHi v).ee = s.ee := rfl
@[simp] theorem setIopHi_mem (s : State) (v : Word) : (s.setIopHi v).mem = s.mem := rfl
@[simp] theorem setIopHi_eeIntc (s : State) (v : Word) : (s.setIopHi v).eeIntc = s.eeIntc := rfl
@[simp] theorem setIopHi_iopIntc (s : State) (v : Word) : (s.setIopHi v).iopIntc = s.iopIntc := rfl
@[simp] theorem setIopHi_eeDmac (s : State) (v : Word) : (s.setIopHi v).eeDmac = s.eeDmac := rfl
@[simp] theorem setIopHi_iopDmac (s : State) (v : Word) : (s.setIopHi v).iopDmac = s.iopDmac := rfl
@[simp] theorem setIopHi_eeTimers (s : State) (v : Word) : (s.setIopHi v).eeTimers = s.eeTimers := rfl
@[simp] theorem setIopHi_iopTimers (s : State) (v : Word) : (s.setIopHi v).iopTimers = s.iopTimers := rfl
@[simp] theorem setIopHi_sched (s : State) (v : Word) : (s.setIopHi v).sched = s.sched := rfl
@[simp] theorem setIopHi_dmaOut (s : State) (v : Word) : (s.setIopHi v).dmaOut = s.dmaOut := rfl
@[simp] theorem setIopHi_extWrites (s : State) (v : Word) : (s.setIopHi v).extWrites = s.extWrites := rfl
@[simp] theorem setIopHi_extIrq (s : State) (v : Word) : (s.setIopHi v).extIrq = s.extIrq := rfl
@[simp] theorem setIopHi_draws (s : State) (v : Word) : (s.setIopHi v).draws = s.draws := rfl
@[simp] theorem setIopHi_turn (s : State) (v : Word) : (s.setIopHi v).turn = s.turn := rfl
@[simp] theorem setIopHi_ticks (s : State) (v : Word) : (s.setIopHi v).ticks = s.ticks := rfl
@[simp] theorem setIopHi_elapsed (s : State) (v : Word) : (s.setIopHi v).elapsed = s.elapsed := rfl
@[simp] theorem setIopHi_cpu (s : State) (v : Word) : (s.setIopHi v).cpu = s.cpu := rfl
@[simp] theorem setIopHi_iop_gpr (s : State) (v : Word) : (s.setIopHi v).iop.gpr = s.iop.gpr := rfl
@[simp] theorem setIopHi_iop_lo (s : State) (v : Word) : (s.setIopHi v).iop.lo = s.iop.lo := rfl
@[simp] theorem setIopHi_iop_ctl (s : State) (v : Word) : (s.setIopHi v).iop.ctl = s.iop.ctl := rfl

/-! ## `setIopLo` -/

@[simp] theorem setIopLo_ee (s : State) (v : Word) : (s.setIopLo v).ee = s.ee := rfl
@[simp] theorem setIopLo_mem (s : State) (v : Word) : (s.setIopLo v).mem = s.mem := rfl
@[simp] theorem setIopLo_eeIntc (s : State) (v : Word) : (s.setIopLo v).eeIntc = s.eeIntc := rfl
@[simp] theorem setIopLo_iopIntc (s : State) (v : Word) : (s.setIopLo v).iopIntc = s.iopIntc := rfl
@[simp] theorem setIopLo_eeDmac (s : State) (v : Word) : (s.setIopLo v).eeDmac = s.eeDmac := rfl
@[simp] theorem setIopLo_iopDmac (s : State) (v : Word) : (s.setIopLo v).iopDmac = s.iopDmac := rfl
@[simp] theorem setIopLo_eeTimers (s : State) (v : Word) : (s.setIopLo v).eeTimers = s.eeTimers := rfl
@[simp] theorem setIopLo_iopTimers (s : State) (v : Word) : (s.setIopLo v).iopTimers = s.iopTimers := rfl
@[simp] theorem setIopLo_sched (s : State) (v : Word) : (s.setIopLo v).sched = s.sched := rfl
@[simp] theorem setIopLo_dmaOut (s : State) (v : Word) : (s.setIopLo v).dmaOut = s.dmaOut := rfl
@[simp] theorem setIopLo_extWrites (s : State) (v : Word) : (s.setIopLo v).extWrites = s.extWrites := rfl
@[simp] theorem setIopLo_extIrq (s : State) (v : Word) : (s.setIopLo v).extIrq = s.extIrq := rfl
@[simp] theorem setIopLo_draws (s : State) (v : Word) : (s.setIopLo v).draws = s.draws := rfl
@[simp] theorem setIopLo_turn (s : State) (v : Word) : (s.setIopLo v).turn = s.turn := rfl
@[simp] theorem setIopLo_ticks (s : State) (v : Word) : (s.setIopLo v).ticks = s.ticks := rfl
@[simp] theorem setIopLo_elapsed (s : State) (v : Word) : (s.setIopLo v).elapsed = s.elapsed := rfl
@[simp] theorem setIopLo_cpu (s : State) (v : Word) : (s.setIopLo v).cpu = s.cpu := rfl
@[simp] theorem setIopLo_iop_gpr (s : State) (v : Word) : (s.setIopLo v).iop.gpr = s.iop.gpr := rfl
@[simp] theorem setIopLo_iop_hi (s : State) (v : Word) : (s.setIopLo v).iop.hi = s.iop.hi := rfl
@[simp] theorem setIopLo_iop_ctl (s : State) (v : Word) : (s.setIopLo v).iop.ctl = s.iop.ctl := rfl

/-! ## `setCtl` -/

@[simp] theorem setCtl_mem (s : State) (c : CpuCtl) : (s.setCtl c).mem = s.mem := rfl
@[simp] theorem setCtl_eeIntc (s : State) (c : CpuCtl) : (s.setCtl c).eeIntc = s.eeIntc := rfl
@[simp] theorem setCtl_iopIntc (s : State) (c : CpuCtl) : (s.setCtl c).iopIntc = s.iopIntc := rfl
@[simp] theorem setCtl_eeDmac (s : State) (c : CpuCtl) : (s.setCtl c).eeDmac = s.eeDmac := rfl
@[simp] theorem setCtl_iopDmac (s : State) (c : CpuCtl) : (s.setCtl c).iopDmac = s.iopDmac := rfl
@[simp] theorem setCtl_eeTimers (s : State) (c : CpuCtl) : (s.setCtl c).eeTimers = s.eeTimers := rfl
@[simp] theorem setCtl_iopTimers (s : State) (c : CpuCtl) : (s.setCtl c).iopTimers = s.iopTimers := rfl
@[simp] theorem setCtl_sched (s : State) (c : CpuCtl) : (s.setCtl c).sched = s.sched := rfl
@[simp] theorem setCtl_dmaOut (s : State) (c : CpuCtl) : (s.setCtl c).dmaOut = s.dmaOut := rfl
@[simp] theorem setCtl_extWrites (s : State) (c : CpuCtl) : (s.setCtl c).extWrites = s.extWrites := rfl
@[simp] theorem setCtl_extIrq (s : State) (c : CpuCtl) : (s.setCtl c).extIrq = s.extIrq := rfl
@[simp] theorem setCtl_draws (s : State) (c : CpuCtl) : (s.setCtl c).draws = s.draws := rfl
@[simp] theorem setCtl_turn (s : State) (c : CpuCtl) : (s.setCtl c).turn = s.turn := rfl
@[simp] theorem setCtl_ticks (s : State) (c : CpuCtl) : (s.setCtl c).ticks = s.ticks := rfl
@[simp] theorem setCtl_elapsed (s : State) (c : CpuCtl) : (s.setCtl c).elapsed = s.elapsed := rfl
@[simp] theorem setCtl_cpu (s : State) (c : CpuCtl) : (s.setCtl c).cpu = s.cpu := rfl
@[simp] theorem setCtl_ee_gpr (s : State) (c : CpuCtl) : (s.setCtl c).ee.gpr = s.ee.gpr := rfl
@[simp] theorem setCtl_ee_hi (s : State) (c : CpuCtl) : (s.setCtl c).ee.hi = s.ee.hi := rfl
@[simp] theorem setCtl_ee_lo (s : State) (c : CpuCtl) : (s.setCtl c).ee.lo = s.ee.lo := rfl
@[simp] theorem setCtl_ee_errorEpc (s : State) (c : CpuCtl) : (s.setCtl c).ee.errorEpc = s.ee.errorEpc := rfl
@[simp] theorem setCtl_ee_count (s : State) (c : CpuCtl) : (s.setCtl c).ee.count = s.ee.count := rfl
@[simp] theorem setCtl_ee_compare (s : State) (c : CpuCtl) : (s.setCtl c).ee.compare = s.ee.compare := rfl
@[simp] theorem setCtl_iop_gpr (s : State) (c : CpuCtl) : (s.setCtl c).iop.gpr = s.iop.gpr := rfl
@[simp] theorem setCtl_iop_hi (s : State) (c : CpuCtl) : (s.setCtl c).iop.hi = s.iop.hi := rfl
@[simp] theorem setCtl_iop_lo (s : State) (c : CpuCtl) : (s.setCtl c).iop.lo = s.iop.lo := rfl

/-! ## `afterDraw` -/

@[simp] theorem afterDraw_ee (s : State) : (s.afterDraw).ee = s.ee := rfl
@[simp] theorem afterDraw_iop (s : State) : (s.afterDraw).iop = s.iop := rfl
@[simp] theorem afterDraw_mem (s : State) : (s.afterDraw).mem = s.mem := rfl
@[simp] theorem afterDraw_eeIntc (s : State) : (s.afterDraw).eeIntc = s.eeIntc := rfl
@[simp] theorem afterDraw_iopIntc (s : State) : (s.afterDraw).iopIntc = s.iopIntc := rfl
@[simp] theorem afterDraw_eeDmac (s : State) : (s.afterDraw).eeDmac = s.eeDmac := rfl
@[simp] theorem afterDraw_iopDmac (s : State) : (s.afterDraw).iopDmac = s.iopDmac := rfl
@[simp] theorem afterDraw_eeTimers (s : State) : (s.afterDraw).eeTimers = s.eeTimers := rfl
@[simp] theorem afterDraw_iopTimers (s : State) : (s.afterDraw).iopTimers = s.iopTimers := rfl
@[simp] theorem afterDraw_sched (s : State) : (s.afterDraw).sched = s.sched := rfl
@[simp] theorem afterDraw_dmaOut (s : State) : (s.afterDraw).dmaOut = s.dmaOut := rfl
@[simp] theorem afterDraw_extWrites (s : State) : (s.afterDraw).extWrites = s.extWrites := rfl
@[simp] theorem afterDraw_extIrq (s : State) : (s.afterDraw).extIrq = s.extIrq := rfl
@[simp] theorem afterDraw_turn (s : State) : (s.afterDraw).turn = s.turn := rfl
@[simp] theorem afterDraw_ticks (s : State) : (s.afterDraw).ticks = s.ticks := rfl
@[simp] theorem afterDraw_elapsed (s : State) : (s.afterDraw).elapsed = s.elapsed := rfl
@[simp] theorem afterDraw_cpu (s : State) : (s.afterDraw).cpu = s.cpu := rfl

/-! ## `requestEe` -/

@[simp] theorem requestEe_ee (s : State) (i : Nat) : (s.requestEe i).ee = s.ee := rfl
@[simp] theorem requestEe_iop (s : State) (i : Nat) : (s.requestEe i).iop = s.iop := rfl
@[simp] theorem requestEe_mem (s : State) (i : Nat) : (s.requestEe i).mem = s.mem := rfl
@[simp] theorem requestEe_iopIntc (s : State) (i : Nat) : (s.requestEe i).iopIntc = s.iopIntc := rfl
@[simp] theorem requestEe_eeDmac (s : State) (i : Nat) : (s.requestEe i).eeDmac = s.eeDmac := rfl
@[simp] theorem requestEe_iopDmac (s : State) (i : Nat) : (s.requestEe i).iopDmac = s.iopDmac := rfl
@[simp] theorem requestEe_eeTimers (s : State) (i : Nat) : (s.requestEe i).eeTimers = s.eeTimers := rfl
@[simp] theorem requestEe_iopTimers (s : State) (i : Nat) : (s.requestEe i).iopTimers = s.iopTimers := rfl
@[simp] theorem requestEe_sched (s : State) (i : Nat) : (s.requestEe i).sched = s.sched := rfl
@[simp] theorem requestEe_dmaOut (s : State) (i : Nat) : (s.requestEe i).dmaOut = s.dmaOut := rfl
@[simp] theorem requestEe_extWrites (s : State) (i : Nat) : (s.requestEe i).extWrites = s.extWrites := rfl
@[simp] theorem requestEe_extIrq (s : State) (i : Nat) : (s.requestEe i).extIrq = s.extIrq := rfl
@[simp] theorem requestEe_draws (s : State) (i : Nat) : (s.requestEe i).draws = s.draws := rfl
@[simp] theorem requestEe_turn (s : State) (i : Nat) : (s.requestEe i).turn = s.turn := rfl
@[simp] theorem requestEe_ticks (s : State) (i : Nat) : (s.requestEe i).ticks = s.ticks := rfl
@[simp] theorem requestEe_elapsed (s : State) (i : Nat) : (s.requestEe i).elapsed = s.elapsed := rfl
@[simp] theorem requestEe_cpu (s : State) (i : Nat) : (s.requestEe i).cpu = s.cpu := rfl

/-! ## `requestIop` -/

@[simp] theorem requestIop_ee (s : State) (i : Nat) : (s.requestIop i).ee = s.ee := rfl
@[simp] theorem requestIop_iop (s : State) (i : Nat) : (s.requestIop i).iop = s.iop := rfl
@[simp] theorem requestIop_mem (s : State) (i : Nat) : (s.requestIop i).mem = s.mem := rfl
@[simp] theorem requestIop_eeIntc (s : State) (i : Nat) : (s.requestIop i).eeIntc = s.eeIntc := rfl
@[simp] theorem requestIop_eeDmac (s : State) (i : Nat) : (s.requestIop i).eeDmac = s.eeDmac := rfl
@[simp] theorem requestIop_iopDmac (s : State) (i : Nat) : (s.requestIop i).iopDmac = s.iopDmac := rfl
@[simp] theorem requestIop_eeTimers (s : State) (i : Nat) : (s.requestIop i).eeTimers = s.eeTimers := rfl
@[simp] theorem requestIop_iopTimers (s : State) (i : Nat) : (s.requestIop i).iopTimers = s.iopTimers := rfl
@[simp] theorem requestIop_sched (s : State) (i : Nat) : (s.requestIop i).sched = s.sched := rfl
@[simp] theorem requestIop_dmaOut (s : State) (i : Nat) : (s.requestIop i).dmaOut = s.dmaOut := rfl
@[simp] theorem requestIop_extWrites (s : State) (i : Nat) : (s.requestIop i).extWrites = s.extWrites := rfl
@[simp] theorem requestIop_extIrq (s : State) (i : Nat) : (s.requestIop i).extIrq = s.extIrq := rfl
@[simp] theorem requestIop_draws (s : State) (i : Nat) : (s.requestIop i).draws = s.draws := rfl
@[simp] theorem requestIop_turn (s : State) (i : Nat) : (s.requestIop i).turn = s.turn := rfl
@[simp] theorem requestIop_ticks (s : State) (i : Nat) : (s.requestIop i).ticks = s.ticks := rfl
@[simp] theorem requestIop_elapsed (s : State) (i : Nat) : (s.requestIop i).elapsed = s.elapsed := rfl
@[simp] theorem requestIop_cpu (s : State) (i : Nat) : (s.requestIop i).cpu = s.cpu := rfl

/-! ## `emitDma` -/

@[simp] theorem emitDma_ee (s : State) (u : DmaUnit) : (s.emitDma u).ee = s.ee := rfl
@[simp] theorem emitDma_iop (s : State) (u : DmaUnit) : (s.emitDma u).iop = s.iop := rfl
@[simp] theorem emitDma_mem (s : State) (u : DmaUnit) : (s.emitDma u).mem = s.mem := rfl
@[simp] theorem emitDma_eeIntc (s : State) (u : DmaUnit) : (s.emitDma u).eeIntc = s.eeIntc := rfl
@[simp] theorem emitDma_iopIntc (s : State) (u : DmaUnit) : (s.emitDma u).iopIntc = s.iopIntc := rfl
@[simp] theorem emitDma_eeDmac (s : State) (u : DmaUnit) : (s.emitDma u).eeDmac = s.eeDmac := rfl
@[simp] theorem emitDma_iopDmac (s : State) (u : DmaUnit) : (s.emitDma u).iopDmac = s.iopDmac := rfl
@[simp] theorem emitDma_eeTimers (s : State) (u : DmaUnit) : (s.emitDma u).eeTimers = s.eeTimers := rfl
@[simp] theorem emitDma_iopTimers (s : State) (u : DmaUnit) : (s.emitDma u).iopTimers = s.iopTimers := rfl
@[simp] theorem emitDma_sched (s : State) (u : DmaUnit) : (s.emitDma u).sched = s.sched := rfl
@[simp] theorem emitDma_extWrites (s : State) (u : DmaUnit) : (s.emitDma u).extWrites = s.extWrites := rfl
@[simp] theorem emitDma_extIrq (s : State) (u : DmaUnit) : (s.emitDma u).extIrq = s.extIrq := rfl
@[simp] theorem emitDma_draws (s : State) (u : DmaUnit) : (s.emitDma u).draws = s.draws := rfl
@[simp] theorem emitDma_turn (s : State) (u : DmaUnit) : (s.emitDma u).turn = s.turn := rfl
@[simp] theorem emitDma_ticks (s : State) (u : DmaUnit) : (s.emitDma u).ticks = s.ticks := rfl
@[simp] theorem emitDma_elapsed (s : State) (u : DmaUnit) : (s.emitDma u).elapsed = s.elapsed := rfl
@[simp] theorem emitDma_cpu (s : State) (u : DmaUnit) : (s.emitDma u).cpu = s.cpu := rfl

/-! ## `setEeChannel` -/

@[simp] theorem setEeChannel_ee (s : State) (ch : Fin 10) (c : EeChannel) : (s.setEeChannel ch c).ee = s.ee := rfl
@[simp] theorem setEeChannel_iop (s : State) (ch : Fin 10) (c : EeChannel) : (s.setEeChannel ch c).iop = s.iop := rfl
@[simp] theorem setEeChannel_mem (s : State) (ch : Fin 10) (c : EeChannel) : (s.setEeChannel ch c).mem = s.mem := rfl
@[simp] theorem setEeChannel_eeIntc (s : State) (ch : Fin 10) (c : EeChannel) : (s.setEeChannel ch c).eeIntc = s.eeIntc := rfl
@[simp] theorem setEeChannel_iopIntc (s : State) (ch : Fin 10) (c : EeChannel) : (s.setEeChannel ch c).iopIntc = s.iopIntc := rfl
@[simp] theorem setEeChannel_iopDmac (s : State) (ch : Fin 10) (c : EeChannel) : (s.setEeChannel ch c).iopDmac = s.iopDmac := rfl
@[simp] theorem setEeChannel_eeTimers (s : State) (ch : Fin 10) (c : EeChannel) : (s.setEeChannel ch c).eeTimers = s.eeTimers := rfl
@[simp] theorem setEeChannel_iopTimers (s : State) (ch : Fin 10) (c : EeChannel) : (s.setEeChannel ch c).iopTimers = s.iopTimers := rfl
@[simp] theorem setEeChannel_sched (s : State) (ch : Fin 10) (c : EeChannel) : (s.setEeChannel ch c).sched = s.sched := rfl
@[simp] theorem setEeChannel_dmaOut (s : State) (ch : Fin 10) (c : EeChannel) : (s.setEeChannel ch c).dmaOut = s.dmaOut := rfl
@[simp] theorem setEeChannel_extWrites (s : State) (ch : Fin 10) (c : EeChannel) : (s.setEeChannel ch c).extWrites = s.extWrites := rfl
@[simp] theorem setEeChannel_extIrq (s : State) (ch : Fin 10) (c : EeChannel) : (s.setEeChannel ch c).extIrq = s.extIrq := rfl
@[simp] theorem setEeChannel_draws (s : State) (ch : Fin 10) (c : EeChannel) : (s.setEeChannel ch c).draws = s.draws := rfl
@[simp] theorem setEeChannel_turn (s : State) (ch : Fin 10) (c : EeChannel) : (s.setEeChannel ch c).turn = s.turn := rfl
@[simp] theorem setEeChannel_ticks (s : State) (ch : Fin 10) (c : EeChannel) : (s.setEeChannel ch c).ticks = s.ticks := rfl
@[simp] theorem setEeChannel_elapsed (s : State) (ch : Fin 10) (c : EeChannel) : (s.setEeChannel ch c).elapsed = s.elapsed := rfl
@[simp] theorem setEeChannel_cpu (s : State) (ch : Fin 10) (c : EeChannel) : (s.setEeChannel ch c).cpu = s.cpu := rfl

/-! ## `setIopChannel` -/

@[simp] theorem setIopChannel_ee (s : State) (ch : Fin 13) (c : IopChannel) : (s.setIopChannel ch c).ee = s.ee := rfl
@[simp] theorem setIopChannel_iop (s : State) (ch : Fin 13) (c : IopChannel) : (s.setIopChannel ch c).iop = s.iop := rfl
@[simp] theorem setIopChannel_mem (s : State) (ch : Fin 13) (c : IopChannel) : (s.setIopChannel ch c).mem = s.mem := rfl
@[simp] theorem setIopChannel_eeIntc (s : State) (ch : Fin 13) (c : IopChannel) : (s.setIopChannel ch c).eeIntc = s.eeIntc := rfl
@[simp] theorem setIopChannel_iopIntc (s : State) (ch : Fin 13) (c : IopChannel) : (s.setIopChannel ch c).iopIntc = s.iopIntc := rfl
@[simp] theorem setIopChannel_eeDmac (s : State) (ch : Fin 13) (c : IopChannel) : (s.setIopChannel ch c).eeDmac = s.eeDmac := rfl
@[simp] theorem setIopChannel_eeTimers (s : State) (ch : Fin 13) (c : IopChannel) : (s.setIopChannel ch c).eeTimers = s.eeTimers := rfl
@[simp] theorem setIopChannel_iopTimers (s : State) (ch : Fin 13) (c : IopChannel) : (s.setIopChannel ch c).iopTimers = s.iopTimers := rfl
@[simp] theorem setIopChannel_sched (s : State) (ch : Fin 13) (c : IopChannel) : (s.setIopChannel ch c).sched = s.sched := rfl
@[simp] theorem setIopChannel_dmaOut (s : State) (ch : Fin 13) (c : IopChannel) : (s.setIopChannel ch c).dmaOut = s.dmaOut := rfl
@[simp] theorem setIopChannel_extWrites (s : State) (ch : Fin 13) (c : IopChannel) : (s.setIopChannel ch c).extWrites = s.extWrites := rfl
@[simp] theorem setIopChannel_extIrq (s : State) (ch : Fin 13) (c : IopChannel) : (s.setIopChannel ch c).extIrq = s.extIrq := rfl
@[simp] theorem setIopChannel_draws (s : State) (ch : Fin 13) (c : IopChannel) : (s.setIopChannel ch c).draws = s.draws := rfl
@[simp] theorem setIopChannel_turn (s : State) (ch : Fin 13) (c : IopChannel) : (s.setIopChannel ch c).turn = s.turn := rfl
@[simp] theorem setIopChannel_ticks (s : State) (ch : Fin 13) (c : IopChannel) : (s.setIopChannel ch c).ticks = s.ticks := rfl
@[simp] theorem setIopChannel_elapsed (s : State) (ch : Fin 13) (c : IopChannel) : (s.setIopChannel ch c).elapsed = s.elapsed := rfl
@[simp] theorem setIopChannel_cpu (s : State) (ch : Fin 13) (c : IopChannel) : (s.setIopChannel ch c).cpu = s.cpu := rfl

/-! ## `setEeTimer` -/

@[simp] theorem setEeTimer_ee (s : State) (n : Fin 4) (t : EeTimer) : (s.setEeTimer n t).ee = s.ee := rfl
@[simp] theorem setEeTimer_iop (s : State) (n : Fin 4) (t : EeTimer) : (s.setEeTimer n t).iop = s.iop := rfl
@[simp] theorem setEeTimer_mem (s : State) (n : Fin 4) (t : EeTimer) : (s.setEeTimer n t).mem = s.mem := rfl
@[simp] theorem setEeTimer_eeIntc (s : State) (n : Fin 4) (t : EeTimer) : (s.setEeTimer n t).eeIntc = s.eeIntc := rfl
@[simp] theorem setEeTimer_iopIntc (s : State) (n : Fin 4) (t : EeTimer) : (s.setEeTimer n t).iopIntc = s.iopIntc := rfl
@[simp] theorem setEeTimer_eeDmac (s : State) (n : Fin 4) (t : EeTimer) : (s.setEeTimer n t).eeDmac = s.eeDmac := rfl
@[simp] theorem setEeTimer_iopDmac (s : State) (n : Fin 4) (t : EeTimer) : (s.setEeTimer n t).iopDmac = s.iopDmac := rfl
@[simp] theorem setEeTimer_iopTimers (s : State) (n : Fin 4) (t : EeTimer) : (s.setEeTimer n t).iopTimers = s.iopTimers := rfl
@[simp] theorem setEeTimer_sched (s : State) (n : Fin 4) (t : EeTimer) : (s.setEeTimer n t).sched = s.sched := rfl
@[simp] theorem setEeTimer_dmaOut (s : State) (n : Fin 4) (t : EeTimer) : (s.setEeTimer n t).dmaOut = s.dmaOut := rfl
@[simp] theorem setEeTimer_extWrites (s : State) (n : Fin 4) (t : EeTimer) : (s.setEeTimer n t).extWrites = s.extWrites := rfl
@[simp] theorem setEeTimer_extIrq (s : State) (n : Fin 4) (t : EeTimer) : (s.setEeTimer n t).extIrq = s.extIrq := rfl
@[simp] theorem setEeTimer_draws (s : State) (n : Fin 4) (t : EeTimer) : (s.setEeTimer n t).draws = s.draws := rfl
@[simp] theorem setEeTimer_turn (s : State) (n : Fin 4) (t : EeTimer) : (s.setEeTimer n t).turn = s.turn := rfl
@[simp] theorem setEeTimer_ticks (s : State) (n : Fin 4) (t : EeTimer) : (s.setEeTimer n t).ticks = s.ticks := rfl
@[simp] theorem setEeTimer_elapsed (s : State) (n : Fin 4) (t : EeTimer) : (s.setEeTimer n t).elapsed = s.elapsed := rfl
@[simp] theorem setEeTimer_cpu (s : State) (n : Fin 4) (t : EeTimer) : (s.setEeTimer n t).cpu = s.cpu := rfl

/-! ## `setIopTimer` -/

@[simp] theorem setIopTimer_ee (s : State) (n : Fin 6) (t : IopTimer) : (s.setIopTimer n t).ee = s.ee := rfl
@[simp] theorem setIopTimer_iop (s : State) (n : Fin 6) (t : IopTimer) : (s.setIopTimer n t).iop = s.iop := rfl
@[simp] theorem setIopTimer_mem (s : State) (n : Fin 6) (t : IopTimer) : (s.setIopTimer n t).mem = s.mem := rfl
@[simp] theorem setIopTimer_eeIntc (s : State) (n : Fin 6) (t : IopTimer) : (s.setIopTimer n t).eeIntc = s.eeIntc := rfl
@[simp] theorem setIopTimer_iopIntc (s : State) (n : Fin 6) (t : IopTimer) : (s.setIopTimer n t).iopIntc = s.iopIntc := rfl
@[simp] theorem setIopTimer_eeDmac (s : State) (n : Fin 6) (t : IopTimer) : (s.setIopTimer n t).eeDmac = s.eeDmac := rfl
@[simp] theorem setIopTimer_iopDmac (s : State) (n : Fin 6) (t : IopTimer) : (s.setIopTimer n t).iopDmac = s.iopDmac := rfl
@[simp] theorem setIopTimer_eeTimers (s : State) (n : Fin 6) (t : IopTimer) : (s.setIopTimer n t).eeTimers = s.eeTimers := rfl
@[simp] theorem setIopTimer_sched (s : State) (n : Fin 6) (t : IopTimer) : (s.setIopTimer n t).sched = s.sched := rfl
@[simp] theorem setIopTimer_dmaOut (s : State) (n : Fin 6) (t : IopTimer) : (s.setIopTimer n t).dmaOut = s.dmaOut := rfl
@[simp] theorem setIopTimer_extWrites (s : State) (n : Fin 6) (t : IopTimer) : (s.setIopTimer n t).extWrites = s.extWrites := rfl
@[simp] theorem setIopTimer_extIrq (s : State) (n : Fin 6) (t : IopTimer) : (s.setIopTimer n t).extIrq = s.extIrq := rfl
@[simp] theorem setIopTimer_draws (s : State) (n : Fin 6) (t : IopTimer) : (s.setIopTimer n t).draws = s.draws := rfl
@[simp] theorem setIopTimer_turn (s : State) (n : Fin 6) (t : IopTimer) : (s.setIopTimer n t).turn = s.turn := rfl
@[simp] theorem setIopTimer_ticks (s : State) (n : Fin 6) (t : IopTimer) : (s.setIopTimer n t).ticks = s.ticks := rfl
@[simp] theorem setIopTimer_elapsed (s : State) (n : Fin 6) (t : IopTimer) : (s.setIopTimer n t).elapsed = s.elapsed := rfl
@[simp] theorem setIopTimer_cpu (s : State) (n : Fin 6) (t : IopTimer) : (s.setIopTimer n t).cpu = s.cpu := rfl

/-! ## The control state read after it is written -/

@[simp] theorem setCtl_ctl (s : State) (c : CpuCtl) : (s.setCtl c).ctl = c := by
  unfold State.ctl State.setCtl
  cases h : s.cpu <;> simp [State.cpu] at h ⊢ <;> simp [h]

@[simp] theorem setCtl_pc (s : State) (c : CpuCtl) : (s.setCtl c).pc = c.pc := by simp [State.pc]

@[simp] theorem setCtl_setCtl (s : State) (c d : CpuCtl) : (s.setCtl c).setCtl d = s.setCtl d := by
  unfold State.setCtl
  cases h : s.cpu <;> simp [State.cpu] at h ⊢ <;> simp [h]

@[simp] theorem setCtl_self (s : State) : s.setCtl s.ctl = s := by
  unfold State.setCtl State.ctl
  cases h : s.cpu <;> rfl

@[simp] theorem setEeReg_ctl (s : State) (i : Reg) (v : Quad) : (s.setEeReg i v).ctl = s.ctl := rfl
@[simp] theorem setIopReg_ctl (s : State) (i : Reg) (v : Word) : (s.setIopReg i v).ctl = s.ctl := rfl
@[simp] theorem setEeHi_ctl (s : State) (v : Dword) : (s.setEeHi v).ctl = s.ctl := rfl
@[simp] theorem setEeLo_ctl (s : State) (v : Dword) : (s.setEeLo v).ctl = s.ctl := rfl
@[simp] theorem setIopHi_ctl (s : State) (v : Word) : (s.setIopHi v).ctl = s.ctl := rfl
@[simp] theorem setIopLo_ctl (s : State) (v : Word) : (s.setIopLo v).ctl = s.ctl := rfl
@[simp] theorem afterDraw_ctl (s : State) : s.afterDraw.ctl = s.ctl := rfl

/-! ## Device elements read after they are written -/

@[simp] theorem eeChannel_setEeChannel (s : State) (ch ch' : Fin 10) (c : EeChannel) :
    (s.setEeChannel ch c).eeChannel ch' = if ch' = ch then c else s.eeChannel ch' := by
  simp only [State.eeChannel, State.setEeChannel, Vector.getElem_set, Fin.ext_iff, eq_comm]

@[simp] theorem iopChannel_setIopChannel (s : State) (ch ch' : Fin 13) (c : IopChannel) :
    (s.setIopChannel ch c).iopChannel ch' = if ch' = ch then c else s.iopChannel ch' := by
  simp only [State.iopChannel, State.setIopChannel, Vector.getElem_set, Fin.ext_iff, eq_comm]

@[simp] theorem eeTimer_setEeTimer (s : State) (n n' : Fin 4) (t : EeTimer) :
    (s.setEeTimer n t).eeTimer n' = if n' = n then t else s.eeTimer n' := by
  simp only [State.eeTimer, State.setEeTimer, Vector.getElem_set, Fin.ext_iff, eq_comm]

@[simp] theorem iopTimer_setIopTimer (s : State) (n n' : Fin 6) (t : IopTimer) :
    (s.setIopTimer n t).iopTimer n' = if n' = n then t else s.iopTimer n' := by
  simp only [State.iopTimer, State.setIopTimer, Vector.getElem_set, Fin.ext_iff, eq_comm]

end Sys2Proof.Machine
end

