-- ==== Sys2Proof/Laws/Registers.lean ====
section
/-! SUPPORT. The general registers: what a read gives after a write, and one lemma per write operation that says
all it does, in the terms of Safety (00_scope.md R17, R18; 10_state.md R41, R45). -/

namespace Sys2Proof.Machine

/-! ## Reads after writes -/

@[simp] theorem eeReg_zero (s : State) : s.eeReg 0 = 0 := rfl
@[simp] theorem iopReg_zero (s : State) : s.iopReg 0 = 0 := rfl

theorem eeReg_setEeReg (s : State) (i j : Reg) (v : Quad) :
    (s.setEeReg i v).eeReg j = if j = 0 then 0 else if j = i then v else s.eeReg j := by
  unfold State.eeReg State.setEeReg
  by_cases hj : j = 0
  · simp [hj]
  · by_cases hi : i = 0
    · subst hi; simp [hj]
    · simp only [hj, hi, if_false, Vector.getElem_set, Fin.ext_iff, eq_comm]

theorem iopReg_setIopReg (s : State) (i j : Reg) (v : Word) :
    (s.setIopReg i v).iopReg j = if j = 0 then 0 else if j = i then v else s.iopReg j := by
  unfold State.iopReg State.setIopReg
  by_cases hj : j = 0
  · simp [hj]
  · by_cases hi : i = 0
    · subst hi; simp [hj]
    · simp only [hj, hi, if_false, Vector.getElem_set, Fin.ext_iff, eq_comm]

@[simp] theorem iopReg_setEeReg (s : State) (i j : Reg) (v : Quad) : (s.setEeReg i v).iopReg j = s.iopReg j := rfl
@[simp] theorem eeReg_setIopReg (s : State) (i j : Reg) (v : Word) : (s.setIopReg i v).eeReg j = s.eeReg j := rfl
@[simp] theorem eeReg_setCtl (s : State) (c : CpuCtl) (j : Reg) : (s.setCtl c).eeReg j = s.eeReg j := rfl
@[simp] theorem iopReg_setCtl (s : State) (c : CpuCtl) (j : Reg) : (s.setCtl c).iopReg j = s.iopReg j := rfl

/-- Writing r0 changes nothing. -/
@[simp] theorem setEeReg_zero (s : State) (v : Quad) : s.setEeReg 0 v = s := by simp [State.setEeReg]
@[simp] theorem setIopReg_zero (s : State) (v : Word) : s.setIopReg 0 v = s := by simp [State.setIopReg]

/-- The raw slot of r0 is never written. -/
@[simp] theorem gpr_zero_setEeReg (s : State) (i : Reg) (v : Quad) :
    (s.setEeReg i v).ee.gpr[0] = s.ee.gpr[0] := by
  unfold State.setEeReg
  by_cases hi : i = 0
  · simp [hi]
  · have : i.val ≠ 0 := fun h => hi (Fin.ext h)
    simp [hi, this]

@[simp] theorem gpr_zero_setIopReg (s : State) (i : Reg) (v : Word) :
    (s.setIopReg i v).iop.gpr[0] = s.iop.gpr[0] := by
  unfold State.setIopReg
  by_cases hi : i = 0
  · simp [hi]
  · have : i.val ≠ 0 := fun h => hi (Fin.ext h)
    simp [hi, this]

/-! ## What each write operation does -/

/-- A whole EE register written. -/
theorem setEeReg_written (s : State) (rd : Reg) (v : Quad) : EeRegWritten s rd v (s.setEeReg rd v) where
  value := by rw [eeReg_setEeReg]; simp
  discarded h := by subst h; simp
  others r h := by
    rw [eeReg_setEeReg]
    by_cases hr : r = 0
    · subst hr; rfl
    · simp [hr, h]
  memory _ := rfl
  rest := rfl

/-- An IOP register written. -/
theorem setIopReg_written (s : State) (rd : Reg) (v : Word) : IopRegWritten s rd v (s.setIopReg rd v) where
  value := by rw [iopReg_setIopReg]; simp
  discarded h := by subst h; simp
  others r h := by
    rw [iopReg_setIopReg]
    by_cases hr : r = 0
    · subst hr; rfl
    · simp [hr, h]
  memory _ := rfl
  rest := rfl

/-- Bits 63:0 of an EE register written. -/
theorem setEe64_written (s : State) (rd : Reg) (v : Dword) :
    EeRegWritten s rd ((s.eeReg rd).extractLsb' 64 64 ++ v) (s.setEe64 rd v) := setEeReg_written _ _ _

/-- `w32s`. -/
theorem w32s_written (s : State) (rd : Reg) (v : Word) : Reg32Written s rd v (s.w32s rd v) := by
  unfold Reg32Written RegWritten State.w32s
  cases h : s.cpu
  · exact setEe64_written _ _ _
  · exact setIopReg_written _ _ _

/-- `wW(i, sext_W(v))`. -/
theorem wSext_written {n : Nat} (s : State) (rd : Reg) (v : BitVec n) :
    RegWritten s rd (v.signExtend 64) (v.signExtend 32) (s.wSext rd v) := by
  unfold RegWritten State.wSext
  cases h : s.cpu
  · exact setEe64_written _ _ _
  · exact setIopReg_written _ _ _

/-- `wW(i, zext_W(v))`. -/
theorem wZext_written {n : Nat} (s : State) (rd : Reg) (v : BitVec n) :
    RegWritten s rd (v.setWidth 64) (v.setWidth 32) (s.wZext rd v) := by
  unfold RegWritten State.wZext
  cases h : s.cpu
  · exact setEe64_written _ _ _
  · exact setIopReg_written _ _ _

/-- A W-bit operation of one register. -/
theorem wOp1_written (s : State) (f : (w : Nat) → BitVec w → BitVec w) (rd a : Reg) :
    RegWritten s rd (f 64 (s.ee64 a)) (f 32 (s.iopReg a)) (s.wOp1 f rd a) := by
  unfold RegWritten State.wOp1
  cases h : s.cpu
  · exact setEe64_written _ _ _
  · exact setIopReg_written _ _ _

/-- A W-bit operation of two registers. -/
theorem wOp2_written (s : State) (f : (w : Nat) → BitVec w → BitVec w → BitVec w) (rd a b : Reg) :
    RegWritten s rd (f 64 (s.ee64 a) (s.ee64 b)) (f 32 (s.iopReg a) (s.iopReg b)) (s.wOp2 f rd a b) := by
  unfold RegWritten State.wOp2
  cases h : s.cpu
  · exact setEe64_written _ _ _
  · exact setIopReg_written _ _ _

/-- HI and LO written in their operating width. -/
theorem setHiLo_eq (s : State) (h l : Word) : s.setHiLo h l = s.withHiLo h l := by
  unfold State.setHiLo State.withHiLo
  cases s.cpu <;> rfl

/-- The control state replaced. -/
theorem setCtl_written (s : State) (c : CpuCtl) : CtlWritten s c (s.setCtl c) where
  ctl := setCtl_ctl s c
  registers _ := ⟨rfl, rfl⟩
  memory _ := rfl
  rest := by simp

/-! ## The frames of the writes the frames allow, read back -/

/-- A register write moves neither turn nor executing CPU. -/
theorem w32s_cpu (s : State) (rd : Reg) (v : Word) : (s.w32s rd v).cpu = s.cpu := by
  unfold State.w32s
  cases h : s.cpu <;> simpa [State.setEe64] using h

/-- A register write does not touch the control state. -/
theorem w32s_ctl (s : State) (rd : Reg) (v : Word) : (s.w32s rd v).ctl = s.ctl := by
  unfold State.w32s
  cases s.cpu <;> simp [State.setEe64]

end Sys2Proof.Machine
end

