-- ==== Sys2Proof/Laws/Ops.lean ====
section
/-! SUPPORT. What each shared operation can do, said once: the sequencing of outcomes, the page table, the memory
primitives, the MMIO dispatcher, exceptions (20_memory.md R104 to R121; 60_exceptions.md R412). -/

namespace Sys2Proof.Machine

/-! ## Sequencing -/

theorem andThen_assoc (o : Out) (f g : State → Out) :
    andThen (andThen o f) g = andThen o fun s => andThen (f s) g := by
  cases o <;> rfl

theorem andThen_eq_next {o : Out} {k : State → Out} {t : State} :
    andThen o k = .next t ↔ ∃ u, o = .next u ∧ k u = .next t := by
  cases o <;> simp [andThen]

theorem useLoaded_eq_next {l : Loaded} {k : Quad → State → Out} {t : State} :
    useLoaded l k = .next t ↔ ∃ v u, l = .value v u ∧ k v u = .next t := by
  cases l <;> simp [useLoaded]

theorem eeOnly_eq_next {i : Instr} {s t : State} {o : Out} :
    eeOnly i s o = .next t ↔ s.cpu = .ee ∧ o = .next t := by
  unfold eeOnly
  cases h : s.cpu <;> simp

theorem onlyOn_eq_next {c : Cpu} {i : Instr} {s t : State} {o : Out} :
    onlyOn c i s o = .next t ↔ s.cpu = c ∧ o = .next t := by
  unfold onlyOn
  split <;> simp_all

theorem outsideSlot_eq_next {s t : State} {o : Out} :
    outsideSlot s o = .next t ↔ s.ctl.inDelaySlot = false ∧ o = .next t := by
  unfold outsideSlot
  split <;> simp_all

/-- An EE-only instruction on the EE. -/
theorem eeOnly_ee {i : Instr} {s : State} {o : Out} (h : s.cpu = .ee) : eeOnly i s o = o := by simp [eeOnly, h]
/-- An EE-only instruction on the IOP (30_encoding.md R185). -/
theorem eeOnly_iop {i : Instr} {s : State} {o : Out} (h : s.cpu = .iop) :
    eeOnly i s o = .fault (.illegalInstruction (encode i) s.pc) := by simp [eeOnly, h]

theorem ctl_ee {s : State} (h : s.cpu = .ee) : s.ctl = s.ee.ctl := by simp [State.ctl, h]
theorem ctl_iop {s : State} (h : s.cpu = .iop) : s.ctl = s.iop.ctl := by simp [State.ctl, h]

/-! ## The page table (20_memory.md R104 to R107) -/

/-- An entry is one of its CPU's regions, and the page lies in it. -/
theorem pageEntry_mem {c : Cpu} {pa : Word} {r : Region} (h : pageEntry c pa = some r) :
    r ∈ Config.regions c ∧ regionCovers r pa = true :=
  ⟨List.mem_of_find?_eq_some h, List.find?_some (p := fun r => regionCovers r pa) h⟩

/-- A mask of ones keeps a number's low bits. -/
theorem toNat_and_mask (pa mask : Word) (k : Nat) (h : mask.toNat = 2 ^ k - 1) :
    (pa &&& mask).toNat = pa.toNat % 2 ^ k := by
  rw [BitVec.toNat_and, h, Nat.and_two_pow_sub_one_eq_mod]

/-- The bytes of an access aligned to at most 16 bytes lie in one buffer (20_memory.md R114). -/
theorem regionKey_inBuffer {c : Cpu} {r : Region} (hr : r ∈ Config.regions c) (pa : Word) (n k : Nat)
    (hn : n ∣ 16) (ha : pa.toNat % n = 0) (hk : k < n) : InBuffer (regionKey r pa + k) := by
  have hn16 : n = 1 ∨ n = 2 ∨ n = 4 ∨ n = 8 ∨ n = 16 := by
    have : n ≤ 16 := Nat.le_of_dvd (by omega) hn
    interval_cases n <;> simp_all
  have key : ∀ (e : Nat), 4 ≤ e → pa.toNat % 2 ^ e + k < 2 ^ e := fun e he => by
    have h16 : n ∣ 2 ^ e := hn.trans (show (16 : Nat) ∣ 2 ^ e from ⟨2 ^ (e - 4), by
      rw [show (16 : Nat) = 2 ^ 4 by rfl, ← pow_add]; congr 1; omega⟩)
    have hm : pa.toNat % 2 ^ e % n = 0 := by rw [Nat.mod_mod_of_dvd _ h16, ha]
    have hlt : pa.toNat % 2 ^ e < 2 ^ e := Nat.mod_lt _ (by positivity)
    obtain ⟨a, ha'⟩ := Nat.dvd_of_mod_eq_zero hm
    obtain ⟨b, hb⟩ := h16
    have hpos : 0 < n := by omega
    have : a < b := by
      rw [ha', hb] at hlt
      exact Nat.lt_of_mul_lt_mul_left hlt
    calc pa.toNat % 2 ^ e + k < n * a + n := by omega
      _ = n * (a + 1) := by ring
      _ ≤ n * b := Nat.mul_le_mul_left n this
      _ = 2 ^ e := hb.symm
  have m25 := key 25 (by omega)
  have m21 := key 21 (by omega)
  have m22 := key 22 (by omega)
  have m14 := key 14 (by omega)
  have m10 := key 10 (by omega)
  norm_num only at m25 m21 m22 m14 m10
  cases c
  · simp only [Config.regions, Config.eeRegions, List.mem_cons, List.not_mem_nil, or_false] at hr
    rcases hr with rfl | rfl | rfl | rfl
    · have := toNat_and_mask pa 0x01FFFFFF#32 25 rfl
      simp only [regionKey, bufBase, this, InBuffer]; norm_num only; omega
    · have := toNat_and_mask pa 0x001FFFFF#32 21 rfl
      simp only [regionKey, bufBase, this, InBuffer]; norm_num only; omega
    · have := toNat_and_mask pa 0x003FFFFF#32 22 rfl
      simp only [regionKey, bufBase, this, InBuffer]; norm_num only; omega
    · have := toNat_and_mask pa 0x00003FFF#32 14 rfl
      simp only [regionKey, bufBase, this, InBuffer]; norm_num only; omega
  · simp only [Config.regions, Config.iopRegions, List.mem_cons, List.not_mem_nil, or_false] at hr
    rcases hr with rfl | rfl | rfl
    · have := toNat_and_mask pa 0x001FFFFF#32 21 rfl
      simp only [regionKey, bufBase, this, InBuffer]; norm_num only; omega
    · have := toNat_and_mask pa 0x000003FF#32 10 rfl
      simp only [regionKey, bufBase, this, InBuffer]; norm_num only; omega
    · have := toNat_and_mask pa 0x003FFFFF#32 22 rfl
      simp only [regionKey, bufBase, this, InBuffer]; norm_num only; omega

/-- Translation keeps the alignment of an address up to 16 bytes. -/
theorem translate_mod (c : Cpu) (va : Word) (n : Nat) (hn : n ∣ 16) :
    (translate c va).toNat % n = va.toNat % n := by
  have h29 : (va &&& Config.physMask).toNat % n = va.toNat % n := by
    rw [toNat_and_mask va Config.physMask 29 rfl, Nat.mod_mod_of_dvd]
    exact hn.trans (by norm_num)
  have h28 : (va &&& Config.eeAliasMask).toNat % n = va.toNat % n := by
    rw [toNat_and_mask va Config.eeAliasMask 28 rfl, Nat.mod_mod_of_dvd]
    exact hn.trans (by norm_num)
  cases c
  · show (eeTranslate va).toNat % n = va.toNat % n
    unfold eeTranslate
    split
    · rfl
    · split
      · exact h28
      · exact h29
  · exact h29

/-- Clearing bits 3:0 aligns to 16. -/
theorem quad_aligned (a : Word) : (a &&& 0xFFFFFFF0#32).toNat % 16 = 0 := by
  have h := toNat_and_mask (a &&& 0xFFFFFFF0#32) 15#32 4 rfl
  rw [BitVec.and_assoc, show (0xFFFFFFF0#32 &&& 15#32 : Word) = 0#32 from rfl, BitVec.and_zero] at h
  exact h.symm

/-! ## The memory primitives (20_memory.md R110, R111) -/

/-- What a read can leave behind: nothing, a draw taken, or, on the IOP, I_CTRL cleared. -/
inductive ReadEffect (s : State) : State → Prop
  | same : ReadEffect s s
  | draw : ReadEffect s s.afterDraw
  | iCtrl : s.cpu = .iop → ReadEffect s (s.writeIopCtrl 0)

theorem mmioTarget_ee {pa : Word} {n : Nat} {r : IopReg} : mmioTarget .ee pa n ≠ .iopReg r := by
  simp only [mmioTarget]
  repeat' split
  all_goals simp

theorem mmioTarget_iop {pa : Word} {n : Nat} {r : EeReg} : mmioTarget .iop pa n ≠ .eeReg r := by
  simp only [mmioTarget]
  repeat' split
  all_goals simp

theorem mmioRead_effect {s t : State} {pa : Word} {n : Nat} {v : Quad} (h : mmioRead s.cpu s pa n = .value v t) :
    ReadEffect s t := by
  unfold mmioRead at h
  split at h
  · cases h; exact .same
  · next r hr =>
    cases h
    have hc : s.cpu = .iop := by
      cases hc : s.cpu
      · rw [hc] at hr; exact absurd hr mmioTarget_ee
      · rfl
    cases r <;> first | exact .iCtrl hc | exact .same
  · cases h; exact .draw
  · cases h

/-- A completed read changes nothing but what a device read changes. -/
theorem memRead_effect {s t : State} {va : Word} {n : Nat} {v : Quad} (h : memRead s va n = .value v t) :
    ReadEffect s t := by
  unfold memRead at h
  split at h
  · cases h
  · split at h
    · cases h; exact .same
    · exact mmioRead_effect h

/-- A read of a mapped, aligned address gives the bytes of its buffer and changes nothing. -/
theorem memRead_page {s : State} {va : Word} {n : Nat} {r : Region} (hm : misalignedFor n va = false)
    (hp : pageEntry s.cpu (translate s.cpu va) = some r) :
    memRead s va n = .value (s.mem.readLE (regionKey r (translate s.cpu va)) n) s := by
  simp [memRead, hm, hp]

/-- What a completed write can do: nothing (discarded), a store into a writable page, a device register's effect, or
a record of an external write. -/
inductive WriteEffect (s : State) (va : Word) (n : Nat) (v : Quad) : State → Prop
  | discarded : s.storesDiscarded = true → WriteEffect s va n v s
  | page (r : Region) : misalignedFor n va = false → pageEntry s.cpu (translate s.cpu va) = some r →
      r.writable = true →
      WriteEffect s va n v { s with mem := s.mem.writeLE (regionKey r (translate s.cpu va)) n v }
  | eeReg (r : EeReg) (w : Word) (t : State) : s.cpu = .ee → writeEeReg r w s = .next t → WriteEffect s va n v t
  | iopReg (r : IopReg) (w : Word) (t : State) : s.cpu = .iop → writeIopReg r w s = .next t → WriteEffect s va n v t
  | external (e : ExtWrite) : WriteEffect s va n v { s with extWrites := s.extWrites ++ [e] }

theorem memWrite_effect {s t : State} {va : Word} {n : Nat} {v : Quad} (h : memWrite s va n v = .next t) :
    WriteEffect s va n v t := by
  unfold memWrite at h
  split at h
  · next hd => cases h; exact .discarded hd
  · split at h
    · cases h
    · next hm =>
      simp only [Bool.not_eq_true] at hm
      split at h
      · next r hr =>
        unfold storeToPage at h
        split at h
        · next hw => cases h; exact .page r hm hr hw
        · simp [Config.romWrite] at h
      · unfold mmioWrite at h
        split at h
        · next r hr =>
          refine .eeReg r _ t ?_ h
          cases hc : s.cpu
          · rfl
          · rw [hc] at hr; exact absurd hr mmioTarget_iop
        · next r hr =>
          refine .iopReg r _ t ?_ h
          cases hc : s.cpu
          · rw [hc] at hr; exact absurd hr mmioTarget_ee
          · rfl
        · cases h; exact .external _
        · cases h

/-- A write of a mapped, aligned, writable address stores its bytes. -/
theorem memWrite_page {s : State} {va : Word} {n : Nat} {v : Quad} {r : Region} (hd : s.storesDiscarded = false)
    (hm : misalignedFor n va = false) (hp : pageEntry s.cpu (translate s.cpu va) = some r) (hw : r.writable = true) :
    memWrite s va n v = .next { s with mem := s.mem.writeLE (regionKey r (translate s.cpu va)) n v } := by
  simp [memWrite, hd, hm, hp, hw, storeToPage]

/-- A store into a page writes its bytes and nothing else. -/
theorem writeLE_written (s : State) (a n : Nat) (v : Quad) :
    MemWritten s a n v { s with mem := s.mem.writeLE a n v } where
  stored k hk := read_writeLE_same s.mem a n v k hk
  others b hb := read_writeLE_other s.mem a n v b hb
  registers _ := ⟨rfl, rfl⟩
  rest := rfl

/-! ## Device register writes touch only their own side's devices -/

/-- An EE register write changes only the EE's timers, DMAC and INTC. -/
theorem writeEeReg_frame {r : EeReg} {v : Word} {s t : State} (h : writeEeReg r v s = .next t) :
    { t with eeTimers := s.eeTimers, eeDmac := s.eeDmac, eeIntc := s.eeIntc } = s := by
  cases r <;> simp only [writeEeReg, writeTMode, writeEeChcr] at h <;> (repeat' split at h) <;> cases h <;> rfl

theorem requestIop_frame (s : State) (i : Nat) :
    { s.requestIop i with iopIntc := s.iopIntc } = s := rfl

theorem iopDmaLineUpdate_frame (s : State) : { s.iopDmaLineUpdate with iopIntc := s.iopIntc } = s := by
  unfold State.iopDmaLineUpdate
  split <;> rfl

/-- An IOP register write changes only the IOP's timers, DMAC and INTC. -/
theorem writeIopReg_frame {r : IopReg} {v : Word} {s t : State} (h : writeIopReg r v s = .next t) :
    { t with iopTimers := s.iopTimers, iopDmac := s.iopDmac, iopIntc := s.iopIntc } = s := by
  cases r <;>
    simp only [writeIopReg, writeIopTMode, writeIopChcr, writeDicr, writeDicr2, State.iopDmaLineUpdate] at h <;>
    (repeat' split at h) <;> cases h <;> rfl

/-- What a completed write leaves of memory: every byte outside the bytes written in the page that serves the address,
and all of it where no page does. -/
theorem memWrite_memory {s t : State} {va : Word} {n : Nat} {v : Quad} (h : memWrite s va n v = .next t) :
    (∀ r, pageEntry s.cpu (translate s.cpu va) = some r → ∀ b,
      b < regionKey r (translate s.cpu va) ∨ regionKey r (translate s.cpu va) + n ≤ b → t.mem.read b = s.mem.read b) ∧
    (pageEntry s.cpu (translate s.cpu va) = none → t.mem = s.mem) := by
  cases memWrite_effect h with
  | discarded => exact ⟨fun _ _ _ _ => rfl, fun _ => rfl⟩
  | page r _ hr =>
    refine ⟨fun r' hr' b hb => ?_, fun hn => by simp [hn] at hr⟩
    rw [hr] at hr'; cases hr'
    exact read_writeLE_other _ _ _ _ _ hb
  | eeReg r w _ _ hw =>
    have e : t.mem = s.mem := (congrArg State.mem (writeEeReg_frame hw) :)
    exact ⟨fun _ _ _ _ => by rw [e], fun _ => e⟩
  | iopReg r w _ _ hw =>
    have e : t.mem = s.mem := (congrArg State.mem (writeIopReg_frame hw) :)
    exact ⟨fun _ _ _ _ => by rw [e], fun _ => e⟩
  | external => exact ⟨fun _ _ _ _ => rfl, fun _ => rfl⟩

end Sys2Proof.Machine
end

