-- ==== Sys2Proof/Laws/Devices.lean ====
section
/-! SUPPORT. What each device's turn may change, said once per device: everything else is as before
(60_exceptions.md R471, R543, R572, R582, R583). -/

namespace Sys2Proof.Machine

/-! ## The EE DMAC -/

/-- Only the EE DMAC, memory, the output history and the draw counter differ. -/
def EeDmacOnly (s t : State) : Prop :=
  ∃ d m o n, t = { s with eeDmac := d, mem := m, dmaOut := o, draws := n }

theorem EeDmacOnly.refl (s : State) : EeDmacOnly s s := ⟨s.eeDmac, s.mem, s.dmaOut, s.draws, rfl⟩

theorem EeDmacOnly.trans {s t u : State} (h : EeDmacOnly s t) (k : EeDmacOnly t u) : EeDmacOnly s u := by
  obtain ⟨d, m, o, n, rfl⟩ := h
  obtain ⟨d', m', o', n', rfl⟩ := k
  exact ⟨d', m', o', n', rfl⟩

theorem setEeChannel_only (s : State) (ch : Fin 10) (c : EeChannel) : EeDmacOnly s (s.setEeChannel ch c) :=
  ⟨_, s.mem, s.dmaOut, s.draws, rfl⟩

theorem emitDma_only (s : State) (u : DmaUnit) : EeDmacOnly s (s.emitDma u) := ⟨s.eeDmac, s.mem, _, s.draws, rfl⟩

theorem afterDraw_only (s : State) : EeDmacOnly s s.afterDraw := ⟨s.eeDmac, s.mem, s.dmaOut, _, rfl⟩

theorem setMem_only (s : State) (m : Memory) : EeDmacOnly s { s with mem := m } :=
  ⟨s.eeDmac, m, s.dmaOut, s.draws, rfl⟩

theorem portReady_always (s : State) : portReady Config.dmaReady s = (true, s) := rfl

/-- A completed quadword read gives the quadword at the address's key and changes nothing. -/
theorem dmaRead16_value {s t : State} {a : Word} {q : Quad} (h : dmaRead16 s a = .value q t) :
    t = s ∧ ∃ k, eeDmaKey false a = some k ∧ q = s.mem.readLE k 16 := by
  unfold dmaRead16 at h
  split at h
  · next k hk => cases h; exact ⟨rfl, k, hk, rfl⟩
  · cases h

/-- A completed quadword write stores the quadword at the address's key and changes nothing else. -/
theorem dmaWrite16_next {s t : State} {a : Word} {q : Quad} (h : dmaWrite16 s a q = .next t) :
    ∃ k, eeDmaKey true a = some k ∧ t = { s with mem := s.mem.writeLE k 16 q } := by
  unfold dmaWrite16 at h
  split at h
  · next k hk => cases h; exact ⟨k, hk, rfl⟩
  · cases h

theorem eeComplete_only (ch : Fin 10) (s : State) : EeDmacOnly s (eeComplete ch s) :=
  ⟨_, s.mem, s.dmaOut, s.draws, rfl⟩

theorem eeCheckDone_only (ch : Fin 10) (s : State) : EeDmacOnly s (eeCheckDone ch s) := by
  unfold eeCheckDone
  simp only
  split
  · split
    · exact eeComplete_only ch s
    · exact setEeChannel_only _ _ _
  · exact .refl s

theorem eeMoveQuad_only {ch : Fin 10} {s t : State} (h : eeMoveQuad ch s = .next t) : EeDmacOnly s t := by
  unfold eeMoveQuad at h
  simp only at h
  split at h
  · obtain ⟨u, hu, hn⟩ := andThen_eq_next.1 h
    obtain ⟨k, -, rfl⟩ := dmaWrite16_next hu
    cases hn
    exact (setMem_only s _).trans (setEeChannel_only _ _ _)
  · obtain ⟨q, u, hu, hn⟩ := useLoaded_eq_next.1 h
    obtain ⟨rfl, -⟩ := dmaRead16_value hu
    cases hn
    exact (setMem_only _ _).trans (setEeChannel_only _ _ _)
  · split at h
    · obtain ⟨q, u, hu, hn⟩ := useLoaded_eq_next.1 h
      obtain ⟨rfl, -⟩ := dmaRead16_value hu
      cases hn
      exact emitDma_only _ _
    · obtain ⟨k, -, rfl⟩ := dmaWrite16_next h
      exact (afterDraw_only s).trans (setMem_only _ _)

theorem eeActiveTick_only {ch : Fin 10} {s t : State} (h : eeActiveTick ch s = .next t) : EeDmacOnly s t := by
  unfold eeActiveTick at h
  split at h
  · cases h; exact eeCheckDone_only ch s
  · rw [portReady_always] at h
    obtain ⟨u, hu, hn⟩ := andThen_eq_next.1 h
    cases hn
    exact (eeMoveQuad_only hu).trans ((setEeChannel_only _ _ _).trans (eeCheckDone_only _ _))

theorem eeTagTick_only {ch : Fin 10} {tag : Quad} {s t : State} (h : eeTagTick ch tag s = .next t) :
    EeDmacOnly s t := by
  unfold eeTagTick at h
  simp only at h
  split at h
  · cases h
  · cases h
    split
    · exact (emitDma_only _ _).trans (setEeChannel_only _ _ _)
    · exact setEeChannel_only _ _ _

theorem eeChannelTick_only {ch : Fin 10} {s t : State} (h : eeChannelTick ch s = .next t) : EeDmacOnly s t := by
  unfold eeChannelTick at h
  simp only at h
  split at h
  · cases h; exact .refl s
  · split at h
    · cases h; exact .refl s
    · exact eeActiveTick_only h
    · obtain ⟨q, u, hu, hn⟩ := useLoaded_eq_next.1 h
      obtain ⟨rfl, -⟩ := dmaRead16_value hu
      exact eeTagTick_only hn

theorem eeChannelsTick_only {chs : List (Fin 10)} {s t : State} (h : eeChannelsTick chs s = .next t) :
    EeDmacOnly s t := by
  induction chs generalizing s with
  | nil => cases h; exact .refl _
  | cons ch chs ih =>
    obtain ⟨u, hu, hn⟩ := andThen_eq_next.1 h
    exact (eeChannelTick_only hu).trans (ih hn)

/-- A tick of the EE DMAC changes only the EE DMAC, memory, the output history and the draw counter. -/
theorem eeDmacTick_only {s t : State} (h : eeDmacTick s = .next t) : EeDmacOnly s t := eeChannelsTick_only h

/-! ## The IOP DMAC -/

/-- Only the IOP DMAC, the IOP INTC, memory, the output history and the draw counter differ. -/
def IopDmacOnly (s t : State) : Prop :=
  ∃ d i m o n, t = { s with iopDmac := d, iopIntc := i, mem := m, dmaOut := o, draws := n }

theorem IopDmacOnly.refl (s : State) : IopDmacOnly s s := ⟨s.iopDmac, s.iopIntc, s.mem, s.dmaOut, s.draws, rfl⟩

theorem IopDmacOnly.trans {s t u : State} (h : IopDmacOnly s t) (k : IopDmacOnly t u) : IopDmacOnly s u := by
  obtain ⟨d, i, m, o, n, rfl⟩ := h
  obtain ⟨d', i', m', o', n', rfl⟩ := k
  exact ⟨d', i', m', o', n', rfl⟩

theorem setIopChannel_only (s : State) (ch : Fin 13) (c : IopChannel) : IopDmacOnly s (s.setIopChannel ch c) :=
  ⟨_, s.iopIntc, s.mem, s.dmaOut, s.draws, rfl⟩

theorem iopDmaLineUpdate_only (s : State) : IopDmacOnly s s.iopDmaLineUpdate := by
  unfold State.iopDmaLineUpdate
  split
  · exact ⟨s.iopDmac, _, s.mem, s.dmaOut, s.draws, rfl⟩
  · exact .refl s

theorem setIopDmaFlag_only (s : State) (ch : Fin 13) : IopDmacOnly s (s.setIopDmaFlag ch) := by
  unfold State.setIopDmaFlag
  split <;> exact ⟨_, s.iopIntc, s.mem, s.dmaOut, s.draws, rfl⟩

theorem iopComplete_only (ch : Fin 13) (s : State) : IopDmacOnly s (iopComplete ch s) :=
  ((setIopChannel_only s ch _).trans (setIopDmaFlag_only _ ch)).trans (iopDmaLineUpdate_only _)

theorem iopCheckDone_only (ch : Fin 13) (s : State) : IopDmacOnly s (iopCheckDone ch s) := by
  unfold iopCheckDone
  split
  · exact iopComplete_only ch s
  · exact .refl s

theorem iopMoveWord_only {ch : Fin 13} {s t : State} (h : iopMoveWord ch s = .next t) : IopDmacOnly s t := by
  unfold iopMoveWord dmaRead4 dmaWrite4 at h
  simp only at h
  split at h
  · split at h
    · cases h; exact ⟨s.iopDmac, s.iopIntc, s.mem, _, s.draws, rfl⟩
    · cases h
  · split at h
    · cases h; exact ⟨s.iopDmac, s.iopIntc, _, s.dmaOut, _, rfl⟩
    · cases h

theorem iopActiveTick_only {ch : Fin 13} {s t : State} (h : iopActiveTick ch s = .next t) : IopDmacOnly s t := by
  unfold iopActiveTick at h
  split at h
  · cases h; exact iopCheckDone_only ch s
  · rw [portReady_always] at h
    obtain ⟨u, hu, hn⟩ := andThen_eq_next.1 h
    cases hn
    exact (iopMoveWord_only hu).trans ((setIopChannel_only _ _ _).trans (iopCheckDone_only _ _))

theorem iopChannelTick_only {ch : Fin 13} {s t : State} (h : iopChannelTick ch s = .next t) : IopDmacOnly s t := by
  unfold iopChannelTick at h
  simp only at h
  split at h
  · cases h; exact .refl s
  · split at h
    · exact iopActiveTick_only h
    · cases h; exact .refl s

theorem iopChannelsTick_only {chs : List (Fin 13)} {s t : State} (h : iopChannelsTick chs s = .next t) :
    IopDmacOnly s t := by
  induction chs generalizing s with
  | nil => cases h; exact .refl _
  | cons ch chs ih =>
    obtain ⟨u, hu, hn⟩ := andThen_eq_next.1 h
    exact (iopChannelTick_only hu).trans (ih hn)

/-- A tick of the IOP DMAC changes only the IOP DMAC, the IOP INTC, memory, the output history and the draws. -/
theorem iopDmacTick_only {s t : State} (h : iopDmacTick s = .next t) : IopDmacOnly s t := iopChannelsTick_only h

/-! ## The timers -/

/-- Only the EE timers and the EE INTC differ. -/
def EeTimersOnly (s t : State) : Prop := ∃ v i, t = { s with eeTimers := v, eeIntc := i }

theorem EeTimersOnly.refl (s : State) : EeTimersOnly s s := ⟨s.eeTimers, s.eeIntc, rfl⟩

theorem EeTimersOnly.trans {s t u : State} (h : EeTimersOnly s t) (k : EeTimersOnly t u) : EeTimersOnly s u := by
  obtain ⟨v, i, rfl⟩ := h
  obtain ⟨v', i', rfl⟩ := k
  exact ⟨v', i', rfl⟩

theorem setEeTimer_only (s : State) (n : Fin 4) (t : EeTimer) : EeTimersOnly s (s.setEeTimer n t) :=
  ⟨_, s.eeIntc, rfl⟩

theorem eeTimerFlag_only (n : Fin 4) (a b : Nat) (s : State) : EeTimersOnly s (eeTimerFlag n a b s) := by
  unfold eeTimerFlag
  simp only
  split
  · exact ⟨_, _, rfl⟩
  · exact .refl s

theorem eeTimerEqual_only (n : Fin 4) (s : State) : EeTimersOnly s (eeTimerEqual n s) := by
  unfold eeTimerEqual
  simp only
  split
  · exact (eeTimerFlag_only _ _ _ _).trans (setEeTimer_only _ _ _)
  · exact eeTimerFlag_only _ _ _ _

theorem eeTimerIncrement_only (n : Fin 4) (s : State) : EeTimersOnly s (eeTimerIncrement n s) := by
  have h : ∀ u, EeTimersOnly s u → ∀ b : Bool,
      EeTimersOnly s (if b then eeTimerFlag n 9 11 u else u) := fun u hu b => by
    cases b
    · exact hu
    · exact hu.trans (eeTimerFlag_only _ _ _ _)
  unfold eeTimerIncrement
  simp only
  refine h _ ?_ _
  split
  · exact (setEeTimer_only _ _ _).trans (eeTimerEqual_only _ _)
  · exact setEeTimer_only _ _ _

theorem eeTimerCycle_only (n : Fin 4) (s : State) : EeTimersOnly s (eeTimerCycle n s) := by
  unfold eeTimerCycle
  simp only
  split
  · split
    · exact (setEeTimer_only _ _ _).trans (eeTimerIncrement_only _ _)
    · exact setEeTimer_only _ _ _
  · exact .refl s

/-- A bus cycle of the EE timers changes only them and the EE INTC. -/
theorem eeTimersCycle_only (s : State) : EeTimersOnly s (eeTimersCycle s) :=
  (((eeTimerCycle_only 0 s).trans (eeTimerCycle_only 1 _)).trans (eeTimerCycle_only 2 _)).trans (eeTimerCycle_only 3 _)

theorem eeTimerHblank_only (n : Fin 4) (s : State) : EeTimersOnly s (eeTimerHblank n s) := by
  unfold eeTimerHblank
  simp only
  split
  · exact eeTimerIncrement_only n s
  · exact .refl s

theorem eeTimersHblank_only (s : State) : EeTimersOnly s (eeTimersHblank s) :=
  (((eeTimerHblank_only 0 s).trans (eeTimerHblank_only 1 _)).trans (eeTimerHblank_only 2 _)).trans
    (eeTimerHblank_only 3 _)

/-- Only the IOP timers and the IOP INTC differ. -/
def IopTimersOnly (s t : State) : Prop := ∃ v i, t = { s with iopTimers := v, iopIntc := i }

theorem IopTimersOnly.refl (s : State) : IopTimersOnly s s := ⟨s.iopTimers, s.iopIntc, rfl⟩

theorem IopTimersOnly.trans {s t u : State} (h : IopTimersOnly s t) (k : IopTimersOnly t u) : IopTimersOnly s u := by
  obtain ⟨v, i, rfl⟩ := h
  obtain ⟨v', i', rfl⟩ := k
  exact ⟨v', i', rfl⟩

theorem setIopTimer_only (s : State) (n : Fin 6) (t : IopTimer) : IopTimersOnly s (s.setIopTimer n t) :=
  ⟨_, s.iopIntc, rfl⟩

theorem iopTimerIrq_only (n : Fin 6) (s : State) : IopTimersOnly s (iopTimerIrq n s) := by
  unfold iopTimerIrq
  simp only
  split
  · exact ⟨_, _, rfl⟩
  · exact .refl s

theorem iopTimerFlag_only (n : Fin 6) (a b : Nat) (s : State) : IopTimersOnly s (iopTimerFlag n a b s) := by
  unfold iopTimerFlag
  simp only
  split
  · exact (setIopTimer_only _ _ _).trans (iopTimerIrq_only _ _)
  · exact setIopTimer_only _ _ _

theorem iopTimerTarget_only (n : Fin 6) (s : State) : IopTimersOnly s (iopTimerTarget n s) := by
  unfold iopTimerTarget
  simp only
  split
  · exact (iopTimerFlag_only _ _ _ _).trans (setIopTimer_only _ _ _)
  · exact iopTimerFlag_only _ _ _ _

theorem iopTimerIncrement_only (n : Fin 6) (s : State) : IopTimersOnly s (iopTimerIncrement n s) := by
  have h : ∀ u, IopTimersOnly s u → ∀ b : Bool,
      IopTimersOnly s (if b then iopTimerFlag n 12 5 u else u) := fun u hu b => by
    cases b
    · exact hu
    · exact hu.trans (iopTimerFlag_only _ _ _ _)
  unfold iopTimerIncrement
  simp only
  refine h _ ?_ _
  split
  · exact (setIopTimer_only _ _ _).trans (iopTimerTarget_only _ _)
  · exact setIopTimer_only _ _ _

/-- An IOP cycle of the IOP timers changes only them and the IOP INTC. -/
theorem iopTimersCycle_only (s : State) : IopTimersOnly s (iopTimersCycle s) :=
  (((((iopTimerIncrement_only 0 s).trans (iopTimerIncrement_only 1 _)).trans (iopTimerIncrement_only 2 _)).trans
    (iopTimerIncrement_only 3 _)).trans (iopTimerIncrement_only 4 _)).trans (iopTimerIncrement_only 5 _)

/-! ## The scheduler -/

/-- Only the two INTCs, the input `ext_irq` and the scheduler differ. -/
def SchedulerOnly (s t : State) : Prop :=
  ∃ e i x q, t = { s with eeIntc := e, iopIntc := i, extIrq := x, sched := q }

theorem requestAll_only (rs : List IrqRequest) (s : State) :
    ∃ e i, requestAll rs s = { s with eeIntc := e, iopIntc := i } := by
  induction rs generalizing s with
  | nil => exact ⟨s.eeIntc, s.iopIntc, rfl⟩
  | cons r rs ih =>
    obtain ⟨e, i, h⟩ := ih (s.requestExternal r)
    refine ⟨e, i, ?_⟩
    rw [requestAll, h]
    cases r <;> rfl

/-- The start of the scheduler phase changes only the INTCs, the input and the scheduler. -/
theorem schedulerPhase_only (s : State) : SchedulerOnly s (schedulerPhase s) := by
  obtain ⟨e, i, h⟩ := requestAll_only (s.extIrq.headD []) s
  unfold schedulerPhase State.tickScheduler
  rw [h]
  exact ⟨e, i, _, _, rfl⟩

/-- Only the two INTCs, the scheduler and the EE timers differ. -/
def EventOnly (s t : State) : Prop :=
  ∃ e i q v, t = { s with eeIntc := e, iopIntc := i, sched := q, eeTimers := v }

/-- A fired event changes only the INTCs, the scheduler and the EE timers. -/
theorem fireEvent_only (e : Event) (s : State) : EventOnly s (fireEvent e s) := by
  unfold fireEvent invokeEvent
  split
  · exact ⟨_, _, _, s.eeTimers, rfl⟩
  · exact ⟨_, _, _, s.eeTimers, rfl⟩
  · obtain ⟨v, i, h⟩ := eeTimersHblank_only
      (({ s with sched := { s.sched with queue := s.sched.queue.tail } } : State).addEvent Config.hblankCycles none .hblank)
    rw [h]
    exact ⟨_, s.iopIntc, _, _, rfl⟩

/-! ## The DMA lines -/

/-- INT1 of D_STAT is the line that R503 spells out bit by bit. -/
theorem State.eeInt1_eq_line (s : State) : s.eeInt1 = eeDmacLine s.eeDmac.dStat := by
  simp only [State.eeInt1, eeDmacLine, and_ne_zero_eq_any]
  simp [List.range_succ]

/-- The IOP DMAC's line is the one that R526 spells out bit by bit. -/
theorem State.iopDmaLine_eq_line (s : State) :
    s.iopDmaLine = iopDmacLine s.iopDmac.dicr s.iopDmac.dicr2 := by
  simp only [State.iopDmaLine, iopDmacLine, and_ne_zero_eq_any]
  simp [List.range_succ]

end Sys2Proof.Machine
end

