-- ==== Sys2Proof/Laws/Effect.lean ====
section
/-! SUPPORT. What one instruction can do, said once for all 101: `exec_effect` gives every next state of `exec` as
one of a few shapes, each tied to the instruction by its destination, by being a store or by being allowed to write
Status. Whole-machine statements follow from these shapes. -/

namespace Sys2Proof.Machine

/-- The bits of Cause the core stores (10_state.md R55, R59). -/
def causeMask : Cpu → Word
  | .ee => 0x8000807C#32
  | .iop => 0x8000037C#32

/-- A state after the general-register part of an effect: unchanged, after a read's own effect, or with HI, LO and
a destination register written. -/
inductive RegEffect (i : Instr) (s : State) : State → Prop
  | same : RegEffect i s s
  | read (u : State) : accessesMemory i = true → ReadEffect s u → RegEffect i s u
  | draw (rt rd : Reg) : i = .mfc0 rt rd → RegEffect i s s.afterDraw
  | eeReg (u : State) (rd : Reg) (v : Quad) : s.cpu = .ee → RegEffect i s u → rd ∈ destinationsOf i →
      RegEffect i s (u.setEeReg rd v)
  | iopReg (u : State) (rd : Reg) (v : Word) : s.cpu = .iop → RegEffect i s u → rd ∈ destinationsOf i →
      RegEffect i s (u.setIopReg rd v)
  | eeHi (u : State) (v : Dword) : s.cpu = .ee → writesHiLo i = true → RegEffect i s u →
      RegEffect i s (u.setEeHi v)
  | eeLo (u : State) (v : Dword) : s.cpu = .ee → writesHiLo i = true → RegEffect i s u →
      RegEffect i s (u.setEeLo v)
  | iopHi (u : State) (v : Word) : s.cpu = .iop → writesHiLo i = true → RegEffect i s u →
      RegEffect i s (u.setIopHi v)
  | iopLo (u : State) (v : Word) : s.cpu = .iop → writesHiLo i = true → RegEffect i s u →
      RegEffect i s (u.setIopLo v)

/-- What `exec i` can make of `s`. -/
inductive Effect (i : Instr) (s : State) : State → Prop
  | regs (t : State) : RegEffect i s t → Effect i s t
  | flow (u : State) (pc target : Word) (pending : Bool) : RegEffect i s u →
      Effect i s (u.setCtl { u.ctl with pc := pc, branchTarget := target, branchPending := pending })
  | eeCop0 (c : CpuCtl) (errorEpc count compare : Word) : s.cpu = .ee → mayChangeStatus i = true →
      (Within (causeMask .ee) s.ee.ctl.cause → Within (causeMask .ee) c.cause) →
      Effect i s { s with ee := { s.ee with ctl := c, errorEpc := errorEpc, count := count, compare := compare } }
  | iopCop0 (c : CpuCtl) : s.cpu = .iop → mayChangeStatus i = true →
      (Within (causeMask .iop) s.iop.ctl.cause → Within (causeMask .iop) c.cause) →
      Effect i s { s with iop := { s.iop with ctl := c } }
  | store (va : Word) (n : Nat) (v : Quad) (t : State) : isStore i = true → n ∣ 16 →
      (n = 16 → va.toNat % 16 = 0) → WriteEffect s va n v t → Effect i s t

/-! ## Register writes -/

theorem setEe64_effect {i : Instr} {s u : State} {rd : Reg} {v : Dword} (hc : s.cpu = .ee) (h : RegEffect i s u)
    (hd : rd ∈ destinationsOf i) : RegEffect i s (u.setEe64 rd v) := .eeReg u rd _ hc h hd

theorem readEffect_cpu {s u : State} (h : ReadEffect s u) : u.cpu = s.cpu := by cases h <;> rfl

theorem regEffect_cpu {i : Instr} {s u : State} (h : RegEffect i s u) : u.cpu = s.cpu := by
  induction h <;> first | assumption | rfl | exact readEffect_cpu ‹_›

theorem w32s_effect {i : Instr} {s u : State} {rd : Reg} {v : Word} (h : RegEffect i s u)
    (hd : rd ∈ destinationsOf i) : RegEffect i s (u.w32s rd v) := by
  have hu := regEffect_cpu h
  unfold State.w32s
  cases hc : s.cpu <;> rw [hc] at hu <;> simp only [hu]
  · exact setEe64_effect hc h hd
  · exact .iopReg _ _ _ hc h hd

theorem wSext_effect {i : Instr} {n : Nat} {s u : State} {rd : Reg} {v : BitVec n} (h : RegEffect i s u)
    (hd : rd ∈ destinationsOf i) : RegEffect i s (u.wSext rd v) := by
  have hu := regEffect_cpu h
  unfold State.wSext
  cases hc : s.cpu <;> rw [hc] at hu <;> simp only [hu]
  · exact setEe64_effect hc h hd
  · exact .iopReg _ _ _ hc h hd

theorem wZext_effect {i : Instr} {n : Nat} {s u : State} {rd : Reg} {v : BitVec n} (h : RegEffect i s u)
    (hd : rd ∈ destinationsOf i) : RegEffect i s (u.wZext rd v) := by
  have hu := regEffect_cpu h
  unfold State.wZext
  cases hc : s.cpu <;> rw [hc] at hu <;> simp only [hu]
  · exact setEe64_effect hc h hd
  · exact .iopReg _ _ _ hc h hd

theorem wOp1_effect {i : Instr} {s : State} {f : (w : Nat) → BitVec w → BitVec w} {rd a : Reg}
    (hd : rd ∈ destinationsOf i) : RegEffect i s (s.wOp1 f rd a) := by
  unfold State.wOp1
  cases hc : s.cpu
  · exact setEe64_effect hc .same hd
  · exact .iopReg _ _ _ hc .same hd

theorem wOp2_effect {i : Instr} {s : State} {f : (w : Nat) → BitVec w → BitVec w → BitVec w} {rd a b : Reg}
    (hd : rd ∈ destinationsOf i) : RegEffect i s (s.wOp2 f rd a b) := by
  unfold State.wOp2
  cases hc : s.cpu
  · exact setEe64_effect hc .same hd
  · exact .iopReg _ _ _ hc .same hd

theorem setHiLo_effect {i : Instr} {s : State} {h l : Word} (hi : writesHiLo i = true) :
    RegEffect i s (s.setHiLo h l) := by
  unfold State.setHiLo
  cases hc : s.cpu
  · exact .eeLo _ _ hc hi (.eeHi _ _ hc hi .same)
  · exact .iopLo _ _ hc hi (.iopHi _ _ hc hi .same)

theorem writeProduct_effect {i : Instr} {s : State} {rd : Reg} {p : Dword} (hd : rd ∈ destinationsOf i)
    (hi : writesHiLo i = true) : RegEffect i s (writeProduct rd p s) := by
  unfold writeProduct
  cases hc : s.cpu
  · exact w32s_effect (setHiLo_effect hi) hd
  · exact setHiLo_effect hi

/-! ## Exceptions -/

theorem causeAtEntry_within {c : Cpu} {cause : Word} {b : Bool} {e : Exc} (h : Within (causeMask c) cause) :
    Within (causeMask c) (causeAtEntry cause b e) := by
  unfold causeAtEntry
  apply within_mergeBits
  · apply within_setBit h
    cases c <;> rfl
  · cases c <;> rfl

/-- Taking an exception writes the executing CPU's control state and nothing else. -/
theorem doException_effect {i : Instr} {s : State} {e : Exc} {p : EntryPoint} (hi : mayChangeStatus i = true) :
    Effect i s (doException e p s) := by
  unfold doException State.setCtl State.ctl
  cases hc : s.cpu
  · exact .eeCop0 _ _ _ _ hc hi (fun h => causeAtEntry_within h)
  · exact .iopCop0 _ hc hi (fun h => causeAtEntry_within h)

theorem writeOrOverflow_effect {i : Instr} {s t : State} {trap : Bool} {rd : Reg} {x : Int}
    (h : writeOrOverflow trap rd x s = .next t) (hd : rd ∈ destinationsOf i) (hi : mayChangeStatus i = true) :
    Effect i s t := by
  unfold writeOrOverflow at h
  split at h
  · cases h; exact doException_effect hi
  · cases h; exact .regs _ (w32s_effect .same hd)

/-! ## Branches -/

theorem requestBranch_effect {i : Instr} {s u : State} {t : Word} (h : RegEffect i s u) :
    Effect i s (u.requestBranch t) := .flow u u.ctl.pc t true h

theorem branchWhen_effect {i : Instr} {s u : State} {b : Bool} {t : Word} (h : RegEffect i s u) :
    Effect i s (branchWhen b t u) := by
  unfold branchWhen
  split
  · exact requestBranch_effect h
  · exact .regs _ h

theorem branchWhenLikely_effect {i : Instr} {s u : State} {b : Bool} {t : Word} (h : RegEffect i s u) :
    Effect i s (branchWhenLikely b t u) := by
  unfold branchWhenLikely
  split
  · exact requestBranch_effect h
  · exact .flow u _ u.ctl.branchTarget u.ctl.branchPending h

theorem link_effect {i : Instr} {s : State} {rd : Reg} (hd : rd ∈ destinationsOf i) : RegEffect i s (s.link rd) :=
  w32s_effect .same hd

/-! ## System instructions -/

theorem setStatus_effect {i : Instr} {s : State} {v : Word} (hi : mayChangeStatus i = true) :
    Effect i s (s.setStatus v) := by
  unfold State.setStatus State.setCtl State.ctl
  cases hc : s.cpu
  · exact .eeCop0 _ _ _ _ hc hi id
  · exact .iopCop0 _ hc hi id

theorem cop0Read_effect (s : State) (rt rd : Reg) : RegEffect (.mfc0 rt rd) s (cop0Read s rd).2 := by
  unfold cop0Read
  split <;> first | exact .same | exact .draw rt rd rfl

theorem cop0Write_effect {i : Instr} {s : State} {n : Reg} {v : Word} (hi : mayChangeStatus i = true) :
    Effect i s (cop0Write s n v) := by
  unfold cop0Write
  split
  · next hc _ => exact .eeCop0 _ _ _ _ hc hi id
  · next hc _ => exact .eeCop0 _ _ _ _ hc hi (fun h => within_setBit h rfl)
  · next hc _ => exact .eeCop0 _ _ _ _ hc hi id
  · exact setStatus_effect hi
  · unfold writeCause
    split
    · exact .regs _ .same
    · next hc =>
      unfold State.setCtl State.ctl
      simp only [hc]
      exact .iopCop0 _ hc hi (fun h => within_mergeBits h rfl)
  · unfold State.setCtl State.ctl
    cases hc : s.cpu
    · exact .eeCop0 _ _ _ _ hc hi id
    · exact .iopCop0 _ hc hi id
  · exact .regs _ .same

/-! ## Loads -/

theorem load_effect {i : Instr} {s t : State} {va : Word} {n : Nat} {k : Quad → State → Out}
    (hi : accessesMemory i = true) (h : useLoaded (memRead s va n) k = .next t)
    (hk : ∀ v u, RegEffect i s u → k v u = .next t → RegEffect i s t) : Effect i s t := by
  obtain ⟨v, u, hr, hn⟩ := useLoaded_eq_next.1 h
  exact .regs _ (hk v u (.read u hi (memRead_effect hr)) hn)

theorem store_effect {i : Instr} {s t : State} {va : Word} {n : Nat} {v : Quad} (hi : isStore i = true)
    (hn : n ∣ 16) (ha : n = 16 → va.toNat % 16 = 0) (h : memWrite s va n v = .next t) : Effect i s t :=
  .store va n v t hi hn ha (memWrite_effect h)

/-! ## The instruction shapes -/

theorem next_inj {s t : State} (h : (Host.Outcome.next s : Out) = .next t) : s = t := by cases h; rfl

theorem condBranch_effect {i : Instr} {s t : State} {b : Bool} {imm : BitVec 16}
    (h : condBranch b imm s = .next t) : Effect i s t := by
  obtain rfl := next_inj (outsideSlot_eq_next.1 h).2
  exact branchWhen_effect .same

theorem likelyBranch_effect {i : Instr} {s t : State} {b : Bool} {imm : BitVec 16}
    (h : likelyBranch b imm s = .next t) : Effect i s t := by
  obtain rfl := next_inj (outsideSlot_eq_next.1 h).2
  exact branchWhenLikely_effect .same

theorem linkBranch_effect {i : Instr} {s t : State} {b : Bool} {imm : BitVec 16}
    (h : linkBranch b imm s = .next t) (hd : (31 : Reg) ∈ destinationsOf i) : Effect i s t := by
  obtain rfl := next_inj (outsideSlot_eq_next.1 h).2
  exact branchWhen_effect (link_effect hd)

theorem linkLikelyBranch_effect {i : Instr} {s t : State} {b : Bool} {imm : BitVec 16}
    (h : linkLikelyBranch b imm s = .next t) (hd : (31 : Reg) ∈ destinationsOf i) : Effect i s t := by
  obtain rfl := next_inj (outsideSlot_eq_next.1 h).2
  exact branchWhenLikely_effect (link_effect hd)

theorem w32sResult_effect {i : Instr} {s t : State} {rd : Reg} {v : Word} (h : (.next (s.w32s rd v) : Out) = .next t)
    (hd : rd ∈ destinationsOf i) : Effect i s t := by
  obtain rfl := next_inj h
  exact .regs _ (w32s_effect .same hd)

theorem wOp1Result_effect {i : Instr} {s t : State} {f : (w : Nat) → BitVec w → BitVec w} {rd a : Reg}
    (h : (.next (s.wOp1 f rd a) : Out) = .next t) (hd : rd ∈ destinationsOf i) : Effect i s t := by
  obtain rfl := next_inj h
  exact .regs _ (wOp1_effect hd)

theorem wOp2Result_effect {i : Instr} {s t : State} {f : (w : Nat) → BitVec w → BitVec w → BitVec w} {rd a b : Reg}
    (h : (.next (s.wOp2 f rd a b) : Out) = .next t) (hd : rd ∈ destinationsOf i) : Effect i s t := by
  obtain rfl := next_inj h
  exact .regs _ (wOp2_effect hd)

theorem ee64Result_effect {i j : Instr} {s t : State} {rd : Reg} {v : Dword} (h : ee64Result j rd v s = .next t)
    (hd : rd ∈ destinationsOf i) : Effect i s t := by
  obtain ⟨hc, h⟩ := eeOnly_eq_next.1 h
  obtain rfl := next_inj h
  exact .regs _ (setEe64_effect hc .same hd)

theorem ee128Result_effect {i j : Instr} {s t : State} {rd : Reg} {v : Quad} (h : ee128Result j rd v s = .next t)
    (hd : rd ∈ destinationsOf i) : Effect i s t := by
  obtain ⟨hc, h⟩ := eeOnly_eq_next.1 h
  obtain rfl := next_inj h
  exact .regs _ (.eeReg _ _ _ hc .same hd)

theorem sameResult_effect {i : Instr} {s t : State} (h : (.next s : Out) = .next t) : Effect i s t := by
  obtain rfl := next_inj h
  exact .regs _ .same

theorem hiLoMove_effect {i : Instr} {s t : State} {e p : State} (h : (match s.cpu with
      | .ee => (.next e : Out)
      | .iop => .next p) = .next t)
    (he : s.cpu = .ee → RegEffect i s e) (hp : s.cpu = .iop → RegEffect i s p) : Effect i s t := by
  cases hc : s.cpu <;> simp only [hc] at h <;> obtain rfl := next_inj h
  · exact .regs _ (he hc)
  · exact .regs _ (hp hc)

theorem eret_effect {s t : State} (h : execEret s = .next t) : Effect .eret s t := by
  obtain ⟨hc, h⟩ := onlyOn_eq_next.1 h
  obtain rfl := next_inj (outsideSlot_eq_next.1 h).2
  exact .eeCop0 _ _ _ _ hc rfl id

theorem rfe_effect {s t : State} (h : execRfe s = .next t) : Effect .rfe s t := by
  obtain ⟨hc, h⟩ := onlyOn_eq_next.1 h
  obtain rfl := next_inj h
  exact .iopCop0 _ hc rfl id

/-! ## What the register part leaves alone -/

/-- The register part of an effect leaves every register that is no destination. -/
theorem regEffect_registers {i : Instr} {s u : State} (h : RegEffect i s u) (r : Reg) (hr : r ∉ destinationsOf i) :
    u.eeReg r = s.eeReg r ∧ u.iopReg r = s.iopReg r := by
  induction h with
  | same => exact ⟨rfl, rfl⟩
  | read u _ h => cases h <;> exact ⟨rfl, rfl⟩
  | draw => exact ⟨rfl, rfl⟩
  | eeReg u rd v hc _ hd ih =>
    have hne : r ≠ rd := fun e => hr (e ▸ hd)
    refine ⟨?_, ih.2⟩
    rw [← ih.1]
    simp only [State.eeReg, State.setEeReg]
    split
    · rfl
    · split
      · rfl
      · exact Vector.getElem_set_ne _ _ (fun e => hne (Fin.ext e.symm))
  | iopReg u rd v hc _ hd ih =>
    have hne : r ≠ rd := fun e => hr (e ▸ hd)
    refine ⟨ih.1, ?_⟩
    rw [← ih.2]
    simp only [State.iopReg, State.setIopReg]
    split
    · rfl
    · split
      · rfl
      · exact Vector.getElem_set_ne _ _ (fun e => hne (Fin.ext e.symm))
  | eeHi u v _ _ _ ih => exact ih
  | eeLo u v _ _ _ ih => exact ih
  | iopHi u v _ _ _ ih => exact ih
  | iopLo u v _ _ _ ih => exact ih

/-- The register part of an effect leaves HI and LO but for the six that write them, and everything that is neither a
register nor changed by a read. -/
theorem regEffect_rest {i : Instr} {s u : State} (h : RegEffect i s u) :
    (writesHiLo i = false → u.ee.hi = s.ee.hi ∧ u.ee.lo = s.ee.lo ∧ u.iop.hi = s.iop.hi ∧ u.iop.lo = s.iop.lo) ∧
    u.ee.ctl = s.ee.ctl ∧ u.iop.ctl = s.iop.ctl ∧ u.ee.errorEpc = s.ee.errorEpc ∧
    u.ee.count = s.ee.count ∧ u.ee.compare = s.ee.compare ∧
    u.mem = s.mem ∧ u.extWrites = s.extWrites ∧ u.eeIntc = s.eeIntc ∧ u.eeDmac = s.eeDmac ∧
      u.iopDmac = s.iopDmac ∧ u.eeTimers = s.eeTimers ∧ u.iopTimers = s.iopTimers ∧
      u.iopIntc.stat = s.iopIntc.stat ∧ u.iopIntc.mask = s.iopIntc.mask ∧
      (accessesMemory i = false → u.iopIntc = s.iopIntc ∧ ((∀ rt rd, i ≠ .mfc0 rt rd) → u.draws = s.draws)) ∧
    u.sched = s.sched ∧ u.extIrq = s.extIrq ∧ u.dmaOut = s.dmaOut ∧ u.turn = s.turn ∧ u.ticks = s.ticks ∧
    u.elapsed = s.elapsed := by
  induction h with
  | same => simp
  | read u hi h =>
    cases h <;> simp_all [State.afterDraw, State.writeIopCtrl]
  | draw rt rd e => subst e; simp [State.afterDraw]
  | eeReg u rd v hc _ hd ih => exact ih
  | iopReg u rd v hc _ hd ih => exact ih
  | eeHi u v _ hw _ ih => simp_all [State.setEeHi]
  | eeLo u v _ hw _ ih => simp_all [State.setEeLo]
  | iopHi u v _ hw _ ih => simp_all [State.setIopHi]
  | iopLo u v _ hw _ ih => simp_all [State.setIopLo]

/-! ## All instructions -/

/-- Every next state of `exec` is one of the shapes above. -/
theorem exec_effect {i : Instr} {s t : State} (h : exec i s = .next t) : Effect i s t := by
  cases i with
  | beq | bne | blez | bgtz | bltz | bgez => exact condBranch_effect h
  | beql | bnel | blezl | bgtzl | bltzl | bgezl => exact likelyBranch_effect (eeOnly_eq_next.1 h).2
  | bltzal | bgezal => exact linkBranch_effect h (by simp [destinationsOf])
  | bltzall | bgezall => exact linkLikelyBranch_effect (eeOnly_eq_next.1 h).2 (by simp [destinationsOf])
  | j | jr =>
    obtain rfl := next_inj (outsideSlot_eq_next.1 h).2
    exact requestBranch_effect .same
  | jal | jalr =>
    obtain rfl := next_inj (outsideSlot_eq_next.1 h).2
    exact requestBranch_effect (link_effect (by simp [destinationsOf]))
  | add | sub | addi => exact writeOrOverflow_effect h (by simp [destinationsOf]) rfl
  | addu | subu | addiu | lui | sll | srl | sra | sllv | srlv | srav =>
    exact w32sResult_effect h (by simp [destinationsOf])
  | and | or | xor | nor | slt | sltu => exact wOp2Result_effect h (by simp [destinationsOf])
  | slti | sltiu | andi | ori | xori => exact wOp1Result_effect h (by simp [destinationsOf])
  | mult | multu =>
    obtain rfl := next_inj h
    exact .regs _ (writeProduct_effect (by simp [destinationsOf]) rfl)
  | div | divu =>
    obtain rfl := next_inj h
    exact .regs _ (setHiLo_effect rfl)
  | mfhi | mflo =>
    exact hiLoMove_effect h (fun hc => setEe64_effect hc .same (by simp [destinationsOf]))
      (fun hc => .iopReg _ _ _ hc .same (by simp [destinationsOf]))
  | mthi => exact hiLoMove_effect h (fun hc => .eeHi _ _ hc rfl .same) (fun hc => .iopHi _ _ hc rfl .same)
  | mtlo => exact hiLoMove_effect h (fun hc => .eeLo _ _ hc rfl .same) (fun hc => .iopLo _ _ hc rfl .same)
  | daddu | dsubu | daddiu | dsll | dsrl | dsra | dsll32 | dsrl32 | dsra32 | dsllv | dsrlv | dsrav =>
    exact ee64Result_effect h (by simp [destinationsOf])
  | movz | movn =>
    obtain ⟨hc, h⟩ := eeOnly_eq_next.1 h
    obtain rfl := next_inj h
    split
    · exact .regs _ (by first | exact .same | exact setEe64_effect hc .same (by simp [destinationsOf]))
    · exact .regs _ (by first | exact .same | exact setEe64_effect hc .same (by simp [destinationsOf]))
  | sync | cache => exact sameResult_effect (eeOnly_eq_next.1 h).2
  | syscall | brk =>
    obtain rfl := next_inj h
    exact doException_effect rfl
  | paddw | psubw | pand | por | pxor | pnor | pcpyld | pcpyud =>
    exact ee128Result_effect h (by simp [destinationsOf])
  | lb | lh =>
    exact load_effect rfl h fun v u hu hn => by
      obtain rfl := next_inj hn
      exact wSext_effect hu (by simp [destinationsOf])
  | lbu | lhu =>
    exact load_effect rfl h fun v u hu hn => by
      obtain rfl := next_inj hn
      exact wZext_effect hu (by simp [destinationsOf])
  | lw =>
    exact load_effect rfl h fun v u hu hn => by
      obtain rfl := next_inj hn
      exact w32s_effect hu (by simp [destinationsOf])
  | lwu =>
    exact load_effect rfl (eeOnly_eq_next.1 h).2 fun v u hu hn => by
      obtain rfl := next_inj hn
      exact wZext_effect hu (by simp [destinationsOf])
  | lq =>
    obtain ⟨hc, h⟩ := eeOnly_eq_next.1 h
    exact load_effect rfl h fun v u hu hn => by
      obtain rfl := next_inj hn
      exact .eeReg _ _ _ hc hu (by simp [destinationsOf])
  | ld =>
    obtain ⟨hc, h⟩ := eeOnly_eq_next.1 h
    exact load_effect rfl h fun v u hu hn => by
      obtain rfl := next_inj hn
      exact setEe64_effect hc hu (by simp [destinationsOf])
  | sb | sh | sw => exact store_effect rfl (by norm_num) (by norm_num) h
  | sq => exact store_effect rfl (by norm_num) (fun _ => quad_aligned _) (eeOnly_eq_next.1 h).2
  | sd => exact store_effect rfl (by norm_num) (by norm_num) (eeOnly_eq_next.1 h).2
  | mfc0 rt rd =>
    obtain rfl := next_inj h
    exact .regs _ (w32s_effect (cop0Read_effect s rt rd) (by simp [destinationsOf]))
  | mtc0 =>
    obtain rfl := next_inj h
    exact cop0Write_effect rfl
  | eret => exact eret_effect h
  | rfe => exact rfe_effect h
  | ei | di =>
    obtain rfl := next_inj (onlyOn_eq_next.1 h).2
    exact setStatus_effect rfl
  | tlbr | tlbwi | tlbwr | tlbp => exact sameResult_effect (onlyOn_eq_next.1 h).2

end Sys2Proof.Machine
end

