-- ==== Sys2Proof/Laws/Encode.lean ====
section
/-! SUPPORT. The fields of the words the encoder builds, one lemma per field and format (30_encoding.md R161 to
R165), and the register fields read back. -/

namespace Sys2Proof

@[simp] theorem regOfBits_bitsOfReg (r : Reg) : regOfBits (bitsOfReg r) = r := rfl
@[simp] theorem bitsOfReg_regOfBits (b : BitVec 5) : bitsOfReg (regOfBits b) = b := rfl
@[simp] theorem bitsOfReg_zero : bitsOfReg 0 = 0 := rfl

/-- A concatenation as a number. -/
theorem toNat_append_eq {n m : Nat} (x : BitVec n) (y : BitVec m) :
    (x ++ y).toNat = x.toNat * 2 ^ m + y.toNat := by
  rw [BitVec.toNat_append, ← Nat.shiftLeft_add_eq_or_of_lt y.isLt, Nat.shiftLeft_eq]

/-! ## The R format -/

section
variable (op : BitVec 6) (rs rt rd sa : BitVec 5) (funct : BitVec 6)

theorem toNat_encodeR : (encodeR op rs rt rd sa funct).toNat =
    ((((op.toNat * 32 + rs.toNat) * 32 + rt.toNat) * 32 + rd.toNat) * 32 + sa.toNat) * 64 + funct.toNat := by
  simp only [encodeR, toNat_append_eq]; rfl

@[simp] theorem fieldOp_encodeR : fieldOp (encodeR op rs rt rd sa funct) = op := by
  apply BitVec.eq_of_toNat_eq
  simp only [fieldOp, BitVec.extractLsb'_toNat, toNat_encodeR, Nat.shiftRight_eq_div_pow]
  omega

@[simp] theorem fieldRsBits_encodeR : fieldRsBits (encodeR op rs rt rd sa funct) = rs := by
  apply BitVec.eq_of_toNat_eq
  simp only [fieldRsBits, BitVec.extractLsb'_toNat, toNat_encodeR, Nat.shiftRight_eq_div_pow]
  omega

@[simp] theorem fieldRtBits_encodeR : fieldRtBits (encodeR op rs rt rd sa funct) = rt := by
  apply BitVec.eq_of_toNat_eq
  simp only [fieldRtBits, BitVec.extractLsb'_toNat, toNat_encodeR, Nat.shiftRight_eq_div_pow]
  omega

@[simp] theorem fieldRdBits_encodeR : fieldRdBits (encodeR op rs rt rd sa funct) = rd := by
  apply BitVec.eq_of_toNat_eq
  simp only [fieldRdBits, BitVec.extractLsb'_toNat, toNat_encodeR, Nat.shiftRight_eq_div_pow]
  omega

@[simp] theorem fieldSa_encodeR : fieldSa (encodeR op rs rt rd sa funct) = sa := by
  apply BitVec.eq_of_toNat_eq
  simp only [fieldSa, BitVec.extractLsb'_toNat, toNat_encodeR, Nat.shiftRight_eq_div_pow]
  omega

@[simp] theorem fieldFunct_encodeR : fieldFunct (encodeR op rs rt rd sa funct) = funct := by
  apply BitVec.eq_of_toNat_eq
  simp only [fieldFunct, BitVec.extractLsb'_toNat, toNat_encodeR, Nat.shiftRight_eq_div_pow]
  omega

@[simp] theorem fieldRs_encodeR : fieldRs (encodeR op rs rt rd sa funct) = regOfBits rs := by simp [fieldRs]
@[simp] theorem fieldRt_encodeR : fieldRt (encodeR op rs rt rd sa funct) = regOfBits rt := by simp [fieldRt]
@[simp] theorem fieldRd_encodeR : fieldRd (encodeR op rs rt rd sa funct) = regOfBits rd := by simp [fieldRd]

end

/-! ## The I format -/

section
variable (op : BitVec 6) (rs rt : BitVec 5) (imm : BitVec 16)

theorem toNat_encodeI : (encodeI op rs rt imm).toNat =
    ((op.toNat * 32 + rs.toNat) * 32 + rt.toNat) * 65536 + imm.toNat := by
  simp only [encodeI, toNat_append_eq]; rfl

@[simp] theorem fieldOp_encodeI : fieldOp (encodeI op rs rt imm) = op := by
  apply BitVec.eq_of_toNat_eq
  simp only [fieldOp, BitVec.extractLsb'_toNat, toNat_encodeI, Nat.shiftRight_eq_div_pow]
  omega

@[simp] theorem fieldRsBits_encodeI : fieldRsBits (encodeI op rs rt imm) = rs := by
  apply BitVec.eq_of_toNat_eq
  simp only [fieldRsBits, BitVec.extractLsb'_toNat, toNat_encodeI, Nat.shiftRight_eq_div_pow]
  omega

@[simp] theorem fieldRtBits_encodeI : fieldRtBits (encodeI op rs rt imm) = rt := by
  apply BitVec.eq_of_toNat_eq
  simp only [fieldRtBits, BitVec.extractLsb'_toNat, toNat_encodeI, Nat.shiftRight_eq_div_pow]
  omega

@[simp] theorem fieldImm_encodeI : fieldImm (encodeI op rs rt imm) = imm := by
  apply BitVec.eq_of_toNat_eq
  simp only [fieldImm, BitVec.extractLsb'_toNat, toNat_encodeI, Nat.shiftRight_eq_div_pow]
  omega

@[simp] theorem fieldRs_encodeI : fieldRs (encodeI op rs rt imm) = regOfBits rs := by simp [fieldRs]
@[simp] theorem fieldRt_encodeI : fieldRt (encodeI op rs rt imm) = regOfBits rt := by simp [fieldRt]

end

/-! ## The J format, and the code field of SYSCALL and BREAK -/

@[simp] theorem fieldOp_encodeJ (op : BitVec 6) (target : BitVec 26) : fieldOp (encodeJ op target) = op := by
  apply BitVec.eq_of_toNat_eq
  simp only [fieldOp, encodeJ, BitVec.extractLsb'_toNat, toNat_append_eq, Nat.shiftRight_eq_div_pow]
  omega

@[simp] theorem fieldTarget_encodeJ (op : BitVec 6) (target : BitVec 26) :
    fieldTarget (encodeJ op target) = target := by
  apply BitVec.eq_of_toNat_eq
  simp only [fieldTarget, encodeJ, BitVec.extractLsb'_toNat, toNat_append_eq, Nat.shiftRight_eq_div_pow]
  omega

@[simp] theorem fieldOp_encodeCode (code : BitVec 20) (funct : BitVec 6) : fieldOp (encodeCode code funct) = 0 := by
  apply BitVec.eq_of_toNat_eq
  simp only [fieldOp, encodeCode, BitVec.extractLsb'_toNat, toNat_append_eq, Nat.shiftRight_eq_div_pow]
  show _ = 0
  have h0 : (0x00#6).toNat = 0 := rfl
  omega

@[simp] theorem fieldFunct_encodeCode (code : BitVec 20) (funct : BitVec 6) :
    fieldFunct (encodeCode code funct) = funct := by
  apply BitVec.eq_of_toNat_eq
  simp only [fieldFunct, encodeCode, BitVec.extractLsb'_toNat, toNat_append_eq, Nat.shiftRight_eq_div_pow]
  omega

@[simp] theorem fieldCode_encodeCode (code : BitVec 20) (funct : BitVec 6) :
    fieldCode (encodeCode code funct) = code := by
  apply BitVec.eq_of_toNat_eq
  simp only [fieldCode, encodeCode, BitVec.extractLsb'_toNat, toNat_append_eq, Nat.shiftRight_eq_div_pow]
  omega

end Sys2Proof
end

