-- ==== Sys2Proof/Laws/Step.lean ====
section
/-! SUPPORT. What one step of the block can do, said once: the instruction of a CPU followed by steps 5 and 6, a tick or
cycle of a device, the scheduler phase, a due event, or the end of a quantum (40_control_flow.md R200;
60_exceptions.md R583). -/

namespace Sys2Proof.Machine

/-- What a step can make of a state. -/
inductive StepCase (s : State) : State → Prop
  | cpu (c : Cpu) (i : Instr) (u : State) : s.turn = .cpu c → Effect i s u → StepCase s (endTick (finishStep u))
  | eeDmac (u : State) : s.turn = .eeDmac → eeDmacTick s = .next u → StepCase s (endTick u)
  | eeTimers : s.turn = .eeTimers → StepCase s (endTick (eeTimersCycle s))
  | iopDmac (u : State) : s.turn = .iopDmac → iopDmacTick s = .next u → StepCase s (endTick u)
  | iopTimers : s.turn = .iopTimers → StepCase s (endTick (iopTimersCycle s))
  | scheduler : s.turn = .scheduler → StepCase s (endTick (schedulerPhase s))
  | fire (e : Event) : s.turn = .events → s.dueEvent = some e → StepCase s (fireEvent e s)
  | quantum : s.turn = .events → s.dueEvent = none → StepCase s (endQuantum s)

/-- Every next state of `step` is one of these. -/
theorem step_cases {s t : State} (h : step s = .next t) : StepCase s t := by
  unfold step at h
  obtain ⟨u, hu, hn⟩ := andThen_eq_next.1 h
  have hn := next_inj hn
  unfold agentAction at hu
  split at hu
  · next c hc =>
    rw [hc] at hn; subst hn
    unfold cpuStep at hu
    split at hu
    · cases hu
    · obtain ⟨v, hv, hn⟩ := andThen_eq_next.1 hu
      have hn := next_inj hn
      subst hn
      unfold execDecoded at hv
      split at hv
      · next i _ => exact .cpu c i v hc (exec_effect hv)
      all_goals cases hv
  · next hc => rw [hc] at hn; subst hn; exact .eeDmac u hc hu
  · next hc => rw [hc] at hn; subst hn; have hu := next_inj hu; subst hu; exact .eeTimers hc
  · next hc => rw [hc] at hn; subst hn; exact .iopDmac u hc hu
  · next hc => rw [hc] at hn; subst hn; have hu := next_inj hu; subst hu; exact .iopTimers hc
  · next hc => rw [hc] at hn; subst hn; have hu := next_inj hu; subst hu; exact .scheduler hc
  · next hc =>
    rw [hc] at hn
    have hu := next_inj hu
    have hn : u = t := hn
    subst hn hu
    unfold eventsTurn
    split
    · next e he => exact .fire e hc he
    · next he => exact .quantum hc he

/-- The end of a tick moves the driver's position only. -/
theorem endTick_frame (s : State) : { endTick s with turn := s.turn, ticks := s.ticks } = s := by
  unfold endTick; split <;> rfl

/-- Only the control state of the executing CPU and, on the EE, Count differ, and Cause holds no bit outside its mask
that it did not hold before. -/
inductive CtlOnly (s : State) : State → Prop
  | ee (c : CpuCtl) (n : Word) : s.cpu = .ee →
      (Within (causeMask .ee) s.ee.ctl.cause → Within (causeMask .ee) c.cause) →
      CtlOnly s { s with ee := { s.ee with ctl := c, count := n } }
  | iop (c : CpuCtl) : s.cpu = .iop →
      (Within (causeMask .iop) s.iop.ctl.cause → Within (causeMask .iop) c.cause) →
      CtlOnly s { s with iop := { s.iop with ctl := c } }

theorem CtlOnly.trans {s t u : State} (h : CtlOnly s t) (k : CtlOnly t u) : CtlOnly s u := by
  cases h with
  | ee c n hc hi =>
    cases k with
    | ee c' n' _ hj => exact .ee c' n' hc (fun x => hj (hi x))
    | iop c' hd _ => exact absurd (hc.symm.trans hd) (by decide)
  | iop c hc hi =>
    cases k with
    | ee c' n' hd _ => exact absurd (hc.symm.trans hd) (by decide)
    | iop c' _ hj => exact .iop c' hc (fun x => hj (hi x))

theorem setCtl_only (s : State) (c : CpuCtl)
    (h : ∀ p, Within (causeMask p) s.ctl.cause → Within (causeMask p) c.cause) : CtlOnly s (s.setCtl c) := by
  cases hc : s.cpu
  · have e : s.ctl = s.ee.ctl := by simp [State.ctl, hc]
    have : s.setCtl c = { s with ee := { s.ee with ctl := c, count := s.ee.count } } := by simp [State.setCtl, hc]
    rw [this]
    exact .ee c s.ee.count hc (by rw [← e]; exact h .ee)
  · have e : s.ctl = s.iop.ctl := by simp [State.ctl, hc]
    have : s.setCtl c = { s with iop := { s.iop with ctl := c } } := by simp [State.setCtl, hc]
    rw [this]
    exact .iop c hc (by rw [← e]; exact h .iop)

theorem advance_only (s : State) : CtlOnly s (advance s) := setCtl_only s _ fun _ h => h

theorem doException_only (e : Exc) (p : EntryPoint) (s : State) : CtlOnly s (doException e p s) :=
  setCtl_only s _ fun _ h => causeAtEntry_within h

theorem countTick_only (s : State) : CtlOnly s (countTick s) := by
  unfold countTick
  cases hc : s.cpu
  · refine .ee _ _ hc fun h => ?_
    simp only
    split
    · exact within_setBit h rfl
    · exact h
  · exact .iop s.iop.ctl hc id

theorem interruptCheck_only (s : State) : CtlOnly s (interruptCheck s) := by
  unfold interruptCheck
  split
  · exact doException_only _ _ _
  · have h := setCtl_only s s.ctl fun _ h => h
    rwa [setCtl_self] at h

/-- Steps 5 and 6 of a CPU step change only the control state of the executing CPU and, on the EE, Count. -/
theorem finishStep_only (s : State) : CtlOnly s (finishStep s) :=
  ((advance_only s).trans (countTick_only _)).trans (interruptCheck_only _)
end Sys2Proof.Machine
end

