-- ==== Sys2Proof/Tests/Slice0.lean ====
section
/-! SUPPORT. Tests: ill-formed instructions are refused; words written out from the encodings of 30_encoding.md decode
to what they stand for; one step of each instruction against the vectors of 95_test_vectors.md (or against a hand
calculation from the rule named); and, for every obligation with hypotheses, a state and operands that meet them. -/

namespace Sys2Proof.Tests

open Sys2Proof.Machine

/-! ## Helpers -/

/-- The reset state at 0x80001000 on one CPU, with some registers set. -/
def started (c : Cpu) (regs : List (Reg × Nat)) : State :=
  regs.foldl (fun s rv => match c with
    | .ee => s.setEeReg rv.1 (BitVec.ofNat 128 rv.2)
    | .iop => s.setIopReg rv.1 (BitVec.ofNat 32 rv.2))
    (State.setPc { State.reset with turn := .cpu c } 0x80001000#32)

/-- A word stored in memory, from a key on. -/
def withWord (s : State) (key : Nat) (w : Word) : State := { s with mem := s.mem.writeLE key 4 (w.setWidth 128) }

/-- The key of the byte that a CPU reads at 0x80001000. -/
def codeKey : Cpu → Nat
  | .ee => 0x1000
  | .iop => 0x1C001000

/-- `started` with a word at pc. -/
def running (c : Cpu) (w : Word) (regs : List (Reg × Nat)) : State := withWord (started c regs) (codeKey c) w

/-- `running` with Status replaced. -/
def runningIn (c : Cpu) (status : Word) (w : Word) (regs : List (Reg × Nat)) : State :=
  (running c w regs).setStatus status

/-- The outcome is a next state with a property. -/
def gives (o : Out) (p : State → Bool) : Bool :=
  match o with
  | .next s => p s
  | _ => false

/-- The outcome is this fault. -/
def faults (o : Out) (f : Fault) : Bool :=
  match o with
  | .fault g => g == f
  | _ => false

/-- The outcome is this refusal. -/
def refuses (o : Out) (r : Refusal) : Bool :=
  match o with
  | .refused q => q == r
  | _ => false

/-- The read gives this value. -/
def reads (l : Loaded) (v : Quad) : Bool :=
  match l with
  | .value x _ => x == v
  | .fault _ => false

/-- The read ends in this fault. -/
def readFaults (l : Loaded) (f : Fault) : Bool :=
  match l with
  | .value .. => false
  | .fault g => g == f

/-- The word that a fetch gives. -/
def fetched (s : State) : Option Word :=
  match fetch s with
  | .ok w => some w
  | .error _ => none

/-- An instruction on the EE leaves this value in a register. -/
def ee (i : Instr) (regs : List (Reg × Nat)) (r : Reg) (v : Quad) : Bool :=
  gives (exec i (started .ee regs)) fun s => s.eeReg r == v

/-- An instruction on the IOP leaves this value in a register. -/
def iop (i : Instr) (regs : List (Reg × Nat)) (r : Reg) (v : Word) : Bool :=
  gives (exec i (started .iop regs)) fun s => s.iopReg r == v

/-- An instruction leaves these values in HI and LO of the EE. -/
def eeHiLo (i : Instr) (regs : List (Reg × Nat)) (hi lo : Quad) : Bool :=
  gives (exec i (started .ee regs)) fun s => s.ee.hi == hi && s.ee.lo == lo

/-- An instruction leaves these values in HI and LO of the IOP. -/
def iopHiLo (i : Instr) (regs : List (Reg × Nat)) (hi lo : Word) : Bool :=
  gives (exec i (started .iop regs)) fun s => s.iop.hi == hi && s.iop.lo == lo

/-- A step of a word at 0x80001000 leaves pc here, with this branch latched for the delay slot. -/
def branches (c : Cpu) (w : Word) (regs : List (Reg × Nat)) (pc : Word) (latched : Option Word) : Bool :=
  gives (cpuStep (running c w regs)) fun s =>
    s.pc == pc && (if s.ctl.inDelaySlot then some s.ctl.branchTarget else none) == latched

/-- A step of a word leaves EPC, Cause, Status and pc at these values. -/
def enters (s : State) (epc cause status pc : Word) : Bool :=
  gives (cpuStep s) fun t => t.ctl.epc == epc && t.ctl.cause == cause && t.ctl.status == status && t.pc == pc

/-- A state of the EE with these bytes at physical 0x100 and x4 = 0x80000100. -/
def eeData (bytes : List Byte) : State :=
  { started .ee [(4, 0xFFFFFFFF80000100)] with mem := Memory.writeBytes [] 0x100 bytes }

/-- A state of the IOP with these bytes at physical 0x100 and x4 = 0x80000100. -/
def iopData (bytes : List Byte) : State :=
  { started .iop [(4, 0x80000100)] with mem := Memory.writeBytes [] 0x1C000100 bytes }

/-- The state in a delay slot, with the branch target latched. -/
def inSlot (s : State) (target : Word) : State := s.setCtl { s.ctl with inDelaySlot := true, branchTarget := target }

/-- An EE channel's registers; TADR and the address stack are 0. -/
def toSpr (chcr madr : Word) (qwc : BitVec 16) (sadr : Word) (phase : DmaPhase) (chainEnd : Bool) : EeChannel :=
  { chcr, madr, qwc, tadr := 0, asr0 := 0, asr1 := 0, sadr, phase, chainEnd }

/-- An IOP channel's registers; BCR and TADR are 0. -/
def fromIop (chcr madr remaining : Word) (phase : DmaPhase) : IopChannel :=
  { madr, bcr := 0, chcr, tadr := 0, phase, remaining }

/-- A state in which a DMA channel of the EE holds these registers. -/
def eeChannelIs (ch : Fin 10) (c : EeChannel) : State := State.setEeChannel { State.reset with turn := .eeDmac } ch c

/-- A state in which a DMA channel of the IOP holds these registers, and DICR this. -/
def iopChannelIs (ch : Fin 13) (c : IopChannel) (dicr : Word) : State :=
  let s := State.setIopChannel { State.reset with turn := .iopDmac } ch c
  { s with iopDmac := { s.iopDmac with dicr := dicr } }

/-! ## Well-formedness: what a CPU does not admit is refused (30_encoding.md R185 to R187) -/

theorem test_wf_refuses_ee_only_on_iop :
    Instr.wellFormed .iop .eret = false ∧ Instr.wellFormed .iop (.beql 1 2 0) = false ∧
    Instr.wellFormed .iop (.daddu 1 2 3) = false ∧ Instr.wellFormed .iop (.paddw 1 2 3) = false ∧
    Instr.wellFormed .iop (.lq 1 2 0) = false ∧ Instr.wellFormed .iop (.sync 0) = false ∧
    Instr.wellFormed .iop .ei = false ∧ Instr.wellFormed .iop .tlbp = false := by decide

theorem test_wf_refuses_iop_only_on_ee : Instr.wellFormed .ee .rfe = false := by decide

theorem test_wf_admits :
    Instr.wellFormed .ee .eret = true ∧ Instr.wellFormed .iop .rfe = true ∧
    Instr.wellFormed .iop (.addu 1 2 3) = true ∧ Instr.wellFormed .ee (.addu 1 2 3) = true := by decide

/-! ## Decoding: each word is written out field by field from 30_encoding.md sections 2 to 4 -/

theorem test_decode_conditional_branches :
    decode .ee 0b000100_00001_00010_1000010000100001#32 = .instr (.beq 1 2 0x8421) ∧
    decode .ee 0b000101_00001_00010_1000010000100001#32 = .instr (.bne 1 2 0x8421) ∧
    decode .ee 0b000110_00001_00000_1000010000100001#32 = .instr (.blez 1 0x8421) ∧
    decode .ee 0b000111_00001_00000_1000010000100001#32 = .instr (.bgtz 1 0x8421) ∧
    decode .ee 0b000001_00001_00000_1000010000100001#32 = .instr (.bltz 1 0x8421) ∧
    decode .ee 0b000001_00001_00001_1000010000100001#32 = .instr (.bgez 1 0x8421) := by decide

theorem test_decode_likely_branches :
    decode .ee 0b010100_00001_00010_1000010000100001#32 = .instr (.beql 1 2 0x8421) ∧
    decode .ee 0b010101_00001_00010_1000010000100001#32 = .instr (.bnel 1 2 0x8421) ∧
    decode .ee 0b010110_00001_00000_1000010000100001#32 = .instr (.blezl 1 0x8421) ∧
    decode .ee 0b010111_00001_00000_1000010000100001#32 = .instr (.bgtzl 1 0x8421) ∧
    decode .ee 0b000001_00001_00010_1000010000100001#32 = .instr (.bltzl 1 0x8421) ∧
    decode .ee 0b000001_00001_00011_1000010000100001#32 = .instr (.bgezl 1 0x8421) := by decide

theorem test_decode_linking_branches_and_jumps :
    decode .ee 0b000001_00001_10000_1000010000100001#32 = .instr (.bltzal 1 0x8421) ∧
    decode .ee 0b000001_00001_10001_1000010000100001#32 = .instr (.bgezal 1 0x8421) ∧
    decode .ee 0b000001_00001_10010_1000010000100001#32 = .instr (.bltzall 1 0x8421) ∧
    decode .ee 0b000001_00001_10011_1000010000100001#32 = .instr (.bgezall 1 0x8421) ∧
    decode .ee 0b000010_10111100000000010000100001#32 = .instr (.j 0x2F00421) ∧
    decode .ee 0b000011_10111100000000010000100001#32 = .instr (.jal 0x2F00421) ∧
    decode .ee 0b000000_00001_00000_00000_00000_001000#32 = .instr (.jr 1) ∧
    decode .ee 0b000000_00001_00000_00011_00000_001001#32 = .instr (.jalr 3 1) := by decide

theorem test_decode_register_arithmetic :
    decode .ee 0b000000_00001_00010_00011_00000_100000#32 = .instr (.add 3 1 2) ∧
    decode .ee 0b000000_00001_00010_00011_00000_100001#32 = .instr (.addu 3 1 2) ∧
    decode .ee 0b000000_00001_00010_00011_00000_100010#32 = .instr (.sub 3 1 2) ∧
    decode .ee 0b000000_00001_00010_00011_00000_100011#32 = .instr (.subu 3 1 2) ∧
    decode .ee 0b000000_00001_00010_00011_00000_100100#32 = .instr (.and 3 1 2) ∧
    decode .ee 0b000000_00001_00010_00011_00000_100101#32 = .instr (.or 3 1 2) ∧
    decode .ee 0b000000_00001_00010_00011_00000_100110#32 = .instr (.xor 3 1 2) ∧
    decode .ee 0b000000_00001_00010_00011_00000_100111#32 = .instr (.nor 3 1 2) ∧
    decode .ee 0b000000_00001_00010_00011_00000_101010#32 = .instr (.slt 3 1 2) ∧
    decode .ee 0b000000_00001_00010_00011_00000_101011#32 = .instr (.sltu 3 1 2) := by decide

theorem test_decode_shifts :
    decode .ee 0b000000_00000_00010_00011_00101_000000#32 = .instr (.sll 3 2 5) ∧
    decode .ee 0b000000_00000_00010_00011_00101_000010#32 = .instr (.srl 3 2 5) ∧
    decode .ee 0b000000_00000_00010_00011_00101_000011#32 = .instr (.sra 3 2 5) ∧
    decode .ee 0b000000_00001_00010_00011_00000_000100#32 = .instr (.sllv 3 2 1) ∧
    decode .ee 0b000000_00001_00010_00011_00000_000110#32 = .instr (.srlv 3 2 1) ∧
    decode .ee 0b000000_00001_00010_00011_00000_000111#32 = .instr (.srav 3 2 1) := by decide

theorem test_decode_multiply_divide :
    decode .ee 0b000000_00001_00010_00011_00000_011000#32 = .instr (.mult 3 1 2) ∧
    decode .ee 0b000000_00001_00010_00011_00000_011001#32 = .instr (.multu 3 1 2) ∧
    decode .ee 0b000000_00001_00010_00000_00000_011010#32 = .instr (.div 1 2) ∧
    decode .ee 0b000000_00001_00010_00000_00000_011011#32 = .instr (.divu 1 2) ∧
    decode .ee 0b000000_00000_00000_00011_00000_010000#32 = .instr (.mfhi 3) ∧
    decode .ee 0b000000_00000_00000_00011_00000_010010#32 = .instr (.mflo 3) ∧
    decode .ee 0b000000_00001_00000_00000_00000_010001#32 = .instr (.mthi 1) ∧
    decode .ee 0b000000_00001_00000_00000_00000_010011#32 = .instr (.mtlo 1) := by decide

theorem test_decode_doubleword :
    decode .ee 0b000000_00001_00010_00011_00000_101101#32 = .instr (.daddu 3 1 2) ∧
    decode .ee 0b000000_00001_00010_00011_00000_101111#32 = .instr (.dsubu 3 1 2) ∧
    decode .ee 0b000000_00000_00010_00011_00101_111000#32 = .instr (.dsll 3 2 5) ∧
    decode .ee 0b000000_00000_00010_00011_00101_111010#32 = .instr (.dsrl 3 2 5) ∧
    decode .ee 0b000000_00000_00010_00011_00101_111011#32 = .instr (.dsra 3 2 5) ∧
    decode .ee 0b000000_00000_00010_00011_00101_111100#32 = .instr (.dsll32 3 2 5) ∧
    decode .ee 0b000000_00000_00010_00011_00101_111110#32 = .instr (.dsrl32 3 2 5) ∧
    decode .ee 0b000000_00000_00010_00011_00101_111111#32 = .instr (.dsra32 3 2 5) ∧
    decode .ee 0b000000_00001_00010_00011_00000_010100#32 = .instr (.dsllv 3 2 1) ∧
    decode .ee 0b000000_00001_00010_00011_00000_010110#32 = .instr (.dsrlv 3 2 1) ∧
    decode .ee 0b000000_00001_00010_00011_00000_010111#32 = .instr (.dsrav 3 2 1) ∧
    decode .ee 0b000000_00001_00010_00011_00000_001010#32 = .instr (.movz 3 1 2) ∧
    decode .ee 0b000000_00001_00010_00011_00000_001011#32 = .instr (.movn 3 1 2) ∧
    decode .ee 0b011001_00001_00010_1000010000100001#32 = .instr (.daddiu 2 1 0x8421) := by decide

theorem test_decode_immediate :
    decode .ee 0b001000_00001_00010_1000010000100001#32 = .instr (.addi 2 1 0x8421) ∧
    decode .ee 0b001001_00001_00010_1000010000100001#32 = .instr (.addiu 2 1 0x8421) ∧
    decode .ee 0b001010_00001_00010_1000010000100001#32 = .instr (.slti 2 1 0x8421) ∧
    decode .ee 0b001011_00001_00010_1000010000100001#32 = .instr (.sltiu 2 1 0x8421) ∧
    decode .ee 0b001100_00001_00010_1000010000100001#32 = .instr (.andi 2 1 0x8421) ∧
    decode .ee 0b001101_00001_00010_1000010000100001#32 = .instr (.ori 2 1 0x8421) ∧
    decode .ee 0b001110_00001_00010_1000010000100001#32 = .instr (.xori 2 1 0x8421) ∧
    decode .ee 0b001111_00000_00010_1000010000100001#32 = .instr (.lui 2 0x8421) := by decide

theorem test_decode_multimedia :
    decode .ee 0b011100_00001_00010_00011_00000_001000#32 = .instr (.paddw 3 1 2) ∧
    decode .ee 0b011100_00001_00010_00011_00001_001000#32 = .instr (.psubw 3 1 2) ∧
    decode .ee 0b011100_00001_00010_00011_10010_001001#32 = .instr (.pand 3 1 2) ∧
    decode .ee 0b011100_00001_00010_00011_10010_101001#32 = .instr (.por 3 1 2) ∧
    decode .ee 0b011100_00001_00010_00011_10011_001001#32 = .instr (.pxor 3 1 2) ∧
    decode .ee 0b011100_00001_00010_00011_10011_101001#32 = .instr (.pnor 3 1 2) ∧
    decode .ee 0b011100_00001_00010_00011_01110_001001#32 = .instr (.pcpyld 3 1 2) ∧
    decode .ee 0b011100_00001_00010_00011_01110_101001#32 = .instr (.pcpyud 3 1 2) := by decide

theorem test_decode_loads :
    decode .ee 0b100000_00001_00010_1000010000100001#32 = .instr (.lb 2 1 0x8421) ∧
    decode .ee 0b100100_00001_00010_1000010000100001#32 = .instr (.lbu 2 1 0x8421) ∧
    decode .ee 0b100001_00001_00010_1000010000100001#32 = .instr (.lh 2 1 0x8421) ∧
    decode .ee 0b100101_00001_00010_1000010000100001#32 = .instr (.lhu 2 1 0x8421) ∧
    decode .ee 0b100011_00001_00010_1000010000100001#32 = .instr (.lw 2 1 0x8421) ∧
    decode .ee 0b100111_00001_00010_1000010000100001#32 = .instr (.lwu 2 1 0x8421) ∧
    decode .ee 0b011110_00001_00010_1000010000100001#32 = .instr (.lq 2 1 0x8421) ∧
    decode .ee 0b110111_00001_00010_1000010000100001#32 = .instr (.ld 2 1 0x8421) := by decide

theorem test_decode_stores :
    decode .ee 0b101000_00001_00010_1000010000100001#32 = .instr (.sb 2 1 0x8421) ∧
    decode .ee 0b101001_00001_00010_1000010000100001#32 = .instr (.sh 2 1 0x8421) ∧
    decode .ee 0b101011_00001_00010_1000010000100001#32 = .instr (.sw 2 1 0x8421) ∧
    decode .ee 0b011111_00001_00010_1000010000100001#32 = .instr (.sq 2 1 0x8421) ∧
    decode .ee 0b111111_00001_00010_1000010000100001#32 = .instr (.sd 2 1 0x8421) := by decide

theorem test_decode_system :
    decode .ee 0b000000_00000_00000_00000_10001_001111#32 = .instr (.sync 17) ∧
    decode .ee 0b000000_10000000000000100001_001100#32 = .instr (.syscall 0x80021) ∧
    decode .ee 0b000000_10000000000000100001_001101#32 = .instr (.brk 0x80021) ∧
    decode .ee 0b101111_00001_00111_1000010000100001#32 = .instr (.cache 7 1 0x8421) ∧
    decode .ee 0b010000_00000_00010_00011_00000_000000#32 = .instr (.mfc0 2 3) ∧
    decode .ee 0b010000_00100_00010_00011_00000_000000#32 = .instr (.mtc0 2 3) ∧
    decode .ee 0b010000_10000_00000_00000_00000_011000#32 = .instr .eret ∧
    decode .iop 0b010000_10000_00000_00000_00000_010000#32 = .instr .rfe ∧
    decode .ee 0b010000_10000_00000_00000_00000_111000#32 = .instr .ei ∧
    decode .ee 0b010000_10000_00000_00000_00000_111001#32 = .instr .di ∧
    decode .ee 0b010000_10000_00000_00000_00000_000001#32 = .instr .tlbr ∧
    decode .ee 0b010000_10000_00000_00000_00000_000010#32 = .instr .tlbwi ∧
    decode .ee 0b010000_10000_00000_00000_00000_000110#32 = .instr .tlbwr ∧
    decode .ee 0b010000_10000_00000_00000_00000_001000#32 = .instr .tlbp := by decide

/-- The IOP decodes the shared rows as the EE does, and leaves the EE's own rows empty or refused
(30_encoding.md R185, R186). -/
theorem test_decode_iop :
    decode .iop 0b001001_00001_00010_1000010000100001#32 = .instr (.addiu 2 1 0x8421) ∧
    decode .iop 0b000000_00001_00010_00011_00000_100001#32 = .instr (.addu 3 1 2) ∧
    decode .iop 0b011111_00001_00010_1000010000100001#32 = .illegal ∧
    decode .iop 0b011100_00001_00010_00011_00000_001000#32 = .illegal ∧
    decode .iop 0b000001_00001_00010_1000010000100001#32 = .illegal ∧
    decode .iop 0b010000_10000_00000_00000_00000_011000#32 = .notAdmitted := by decide

/-- Fields an instruction does not use are ignored (30_encoding.md R194). -/
theorem test_decode_ignores_unused_fields :
    decode .ee 0b000000_00001_00010_00011_11111_100001#32 = .instr (.addu 3 1 2) ∧
    decode .ee 0b001111_11111_00010_1000010000100001#32 = .instr (.lui 2 0x8421) ∧
    decode .iop 0b010000_10000_11111_00000_00001_010000#32 = .instr .rfe := by decide

/-- The four bytes of a word stand lowest first (20_memory.md R130). -/
theorem test_decode_bytes :
    decodeBytes .ee [0x01, 0x00, 0x00, 0x10] = some (.instr (.beq 0 0 1)) ∧ decodeBytes .ee [0x01, 0x00, 0x00] = none ∧
    decodeTableWord 32 0x10000001 = some (.beq 0 0 1) ∧ decodeTableWord 32 0x42000010 = some .rfe ∧
    decodeTableWord 32 0xFFFFFFFF = some (.sd 31 31 0xFFFF) ∧ decodeTableWord 32 0x4C000000 = none := by decide

/-! ## One step of each instruction: 95_test_vectors.md section 2, or a hand calculation from the rule named -/

/-! ### Arithmetic and logic (section 2.1) -/

theorem test_addu :
    ee (.addu 3 1 2) [(1, 0x7FFFFFFF), (2, 1)] 3 0xFFFFFFFF80000000#128 = true ∧
    iop (.addu 3 1 2) [(1, 0x7FFFFFFF), (2, 1)] 3 0x80000000#32 = true := by decide

/-- Bits 127:64 of an EE register stay (section 2.5, last row). -/
theorem test_addu_keeps_upper_half :
    ee (.addu 3 1 2) [(1, 1), (2, 1), (3, 2 ^ 128 - 1)] 3 0xFFFFFFFFFFFFFFFF0000000000000002#128 = true := by decide

theorem test_add_overflow :
    enters (running .ee 0x00221820#32 [(1, 0x7FFFFFFF), (2, 1)]) 0x80001000#32 0x30#32 2#32 0x80000180#32 = true ∧
    enters (running .iop 0x00221820#32 [(1, 0x7FFFFFFF), (2, 1)]) 0x80001000#32 0x30#32 0#32 0x80000080#32 = true := by
  decide

/-- R270: the sum of two negative words that fits. -/
theorem test_add : ee (.add 3 1 2) [(1, 0xFFFFFFFF), (2, 0xFFFFFFFE)] 3 0xFFFFFFFFFFFFFFFD#128 = true := by decide

theorem test_sub_overflow :
    enters (running .ee 0x00221822#32 [(1, 0x80000000), (2, 1)]) 0x80001000#32 0x30#32 2#32 0x80000180#32 = true := by
  decide

/-- R272: the order of the operands. -/
theorem test_sub : iop (.sub 3 1 2) [(1, 5), (2, 7)] 3 0xFFFFFFFE#32 = true := by decide

theorem test_subu :
    ee (.subu 3 1 2) [(2, 1)] 3 0xFFFFFFFFFFFFFFFF#128 = true ∧ iop (.subu 3 1 2) [(2, 1)] 3 0xFFFFFFFF#32 = true := by
  decide

theorem test_and : ee (.and 3 1 2) [(1, 0xF0F0), (2, 0xFF00)] 3 0xF000#128 = true := by decide

/-- R275, on 64 bits. -/
theorem test_or : ee (.or 3 1 2) [(1, 0xF000000000000000), (2, 0xF)] 3 0xF00000000000000F#128 = true := by decide

/-- R276, with a source that is the destination. -/
theorem test_xor : iop (.xor 1 1 2) [(1, 0xFF), (2, 0x0F)] 1 0xF0#32 = true := by decide

theorem test_nor :
    ee (.nor 3 0 0) [] 3 0xFFFFFFFFFFFFFFFF#128 = true ∧ iop (.nor 3 0 0) [] 3 0xFFFFFFFF#32 = true := by decide

theorem test_slt :
    ee (.slt 3 1 2) [(1, 0xFFFFFFFFFFFFFFFF), (2, 1)] 3 1#128 = true ∧
    iop (.slt 3 1 2) [(1, 0xFFFFFFFF), (2, 1)] 3 1#32 = true := by decide

theorem test_sltu :
    ee (.sltu 3 1 2) [(1, 0xFFFFFFFFFFFFFFFF), (2, 1)] 3 0#128 = true ∧
    iop (.sltu 3 1 2) [(1, 1), (2, 0xFFFFFFFF)] 3 1#32 = true := by decide

theorem test_addi_overflow :
    enters (running .ee 0x20220001#32 [(1, 0x7FFFFFFF)]) 0x80001000#32 0x30#32 2#32 0x80000180#32 = true := by decide

/-- R280: a negative immediate. -/
theorem test_addi : ee (.addi 2 1 0xFFFD) [(1, 5)] 2 2#128 = true := by decide

theorem test_addiu :
    ee (.addiu 2 1 0xFFFF) [] 2 0xFFFFFFFFFFFFFFFF#128 = true ∧ iop (.addiu 2 1 0xFFFF) [] 2 0xFFFFFFFF#32 = true := by
  decide

theorem test_addiu_ignores_upper_word : ee (.addiu 2 1 1) [(1, 0x17FFFFFFF)] 2 0xFFFFFFFF80000000#128 = true := by
  decide

theorem test_slti :
    ee (.slti 2 1 0x8000) [] 2 0#128 = true ∧ iop (.slti 2 1 0x8000) [(1, 0x80000000)] 2 1#32 = true := by decide

theorem test_sltiu :
    ee (.sltiu 2 1 0xFFFF) [(1, 5)] 2 1#128 = true ∧ iop (.sltiu 2 1 1) [] 2 1#32 = true := by decide

theorem test_andi : ee (.andi 2 1 0x8000) [(1, 0xFFFFFFFF)] 2 0x8000#128 = true := by decide

theorem test_ori : ee (.ori 2 0 0xFFFF) [] 2 0xFFFF#128 = true := by decide

theorem test_xori : iop (.xori 2 1 0xFFFF) [(1, 0xF0F0)] 2 0x0F0F#32 = true := by decide

theorem test_lui :
    ee (.lui 2 0x8000) [] 2 0xFFFFFFFF80000000#128 = true ∧ iop (.lui 2 0x1234) [] 2 0x12340000#32 = true := by decide

/-- A write of register 0 is discarded (section 1.1). -/
theorem test_register_zero :
    ee (.addiu 0 0 5) [] 0 0#128 = true ∧ iop (.addiu 0 0 5) [] 0 0#32 = true ∧
    ee (.por 0 1 1) [(1, 2 ^ 128 - 1)] 0 0#128 = true := by decide

/-! ### Shifts (section 2.2) -/

theorem test_sll :
    ee (.sll 2 1 31) [(1, 1)] 2 0xFFFFFFFF80000000#128 = true ∧
    ee (.sll 2 1 0) [(1, 0x80000000)] 2 0xFFFFFFFF80000000#128 = true := by decide

theorem test_srl : ee (.srl 2 1 1) [(1, 0x80000000)] 2 0x40000000#128 = true := by decide

theorem test_sra :
    ee (.sra 2 1 4) [(1, 0x80000000)] 2 0xFFFFFFFFF8000000#128 = true ∧
    iop (.sra 2 1 31) [(1, 0x7FFFFFFF)] 2 0#32 = true := by decide

theorem test_sllv : ee (.sllv 3 2 1) [(1, 33), (2, 1)] 3 2#128 = true := by decide

theorem test_srlv : iop (.srlv 3 2 1) [(1, 32), (2, 0x80)] 3 0x80#32 = true := by decide

theorem test_srav : ee (.srav 3 2 1) [(1, 1), (2, 0x80000000)] 3 0xFFFFFFFFC0000000#128 = true := by decide

theorem test_dsll : ee (.dsll 2 1 4) [(1, 0x0F00000000000001)] 2 0xF000000000000010#128 = true := by decide

/-- R314. -/
theorem test_dsrl : ee (.dsrl 2 1 4) [(1, 0xF000000000000010)] 2 0x0F00000000000001#128 = true := by decide

/-- R315. -/
theorem test_dsra : ee (.dsra 2 1 4) [(1, 0xF000000000000010)] 2 0xFF00000000000001#128 = true := by decide

theorem test_dsll32 : ee (.dsll32 2 1 0) [(1, 1)] 2 0x100000000#128 = true := by decide

theorem test_dsrl32 : ee (.dsrl32 2 1 0) [(1, 0x8000000000000000)] 2 0x80000000#128 = true := by decide

theorem test_dsra32 :
    ee (.dsra32 2 1 0) [(1, 0x8000000000000000)] 2 0xFFFFFFFF80000000#128 = true ∧
    ee (.dsra32 2 1 31) [(1, 0x8000000000000000)] 2 0xFFFFFFFFFFFFFFFF#128 = true := by decide

theorem test_dsllv : ee (.dsllv 3 2 1) [(1, 64), (2, 5)] 3 5#128 = true := by decide

/-- R320. -/
theorem test_dsrlv : ee (.dsrlv 3 2 1) [(1, 63), (2, 0x8000000000000000)] 3 1#128 = true := by decide

/-- R321. -/
theorem test_dsrav : ee (.dsrav 3 2 1) [(1, 63), (2, 0x8000000000000000)] 3 0xFFFFFFFFFFFFFFFF#128 = true := by decide

/-- An EE-only instruction is illegal on the IOP (section 2.2, last line). -/
theorem test_ee_only_on_iop :
    faults (step (running .iop 0x00011138#32 [])) (.illegalInstruction 0x00011138#32 0x80001000#32) = true ∧
    faults (step (running .iop 0x50200002#32 [])) (.illegalInstruction 0x50200002#32 0x80001000#32) = true := by decide

/-! ### Multiply, divide, HI and LO (section 2.3) -/

theorem test_mult :
    eeHiLo (.mult 0 1 2) [(1, 0xFFFFFFFE), (2, 3)] 0xFFFFFFFFFFFFFFFF#128 0xFFFFFFFFFFFFFFFA#128 = true ∧
    iopHiLo (.mult 3 1 2) [(1, 0xFFFFFFFE), (2, 3)] 0xFFFFFFFF#32 0xFFFFFFFA#32 = true := by decide

theorem test_mult_rd :
    ee (.mult 3 1 2) [(1, 0xFFFFFFFE), (2, 3)] 3 0xFFFFFFFFFFFFFFFA#128 = true ∧
    iop (.mult 3 1 2) [(1, 0xFFFFFFFE), (2, 3)] 3 0#32 = true := by decide

theorem test_multu :
    eeHiLo (.multu 0 1 2) [(1, 0xFFFFFFFF), (2, 0xFFFFFFFF)] 0xFFFFFFFFFFFFFFFE#128 1#128 = true ∧
    iopHiLo (.multu 0 1 2) [(1, 0x10000), (2, 0x10000)] 1#32 0#32 = true := by decide

theorem test_div :
    eeHiLo (.div 1 2) [(1, 7), (2, 0xFFFFFFFE)] 1#128 0xFFFFFFFFFFFFFFFD#128 = true ∧
    iopHiLo (.div 1 2) [(1, 0xFFFFFFF9), (2, 2)] 0xFFFFFFFF#32 0xFFFFFFFD#32 = true := by decide

theorem test_div_corners :
    eeHiLo (.div 1 2) [(1, 5)] 5#128 0xFFFFFFFFFFFFFFFF#128 = true ∧
    eeHiLo (.div 1 2) [(1, 0xFFFFFFFB)] 0xFFFFFFFFFFFFFFFB#128 1#128 = true ∧
    eeHiLo (.div 1 2) [(1, 0x80000000), (2, 0xFFFFFFFF)] 0#128 0xFFFFFFFF80000000#128 = true := by decide

theorem test_divu :
    eeHiLo (.divu 1 2) [(1, 0xFFFFFFFF), (2, 2)] 1#128 0x7FFFFFFF#128 = true ∧
    eeHiLo (.divu 1 2) [(1, 5)] 5#128 0xFFFFFFFFFFFFFFFF#128 = true := by decide

/-- R298, R299: the EE's HI and LO hold `a` and `b` here. -/
theorem test_mfhi_mflo :
    gives (exec (.mfhi 2) { started .ee [] with ee := { (started .ee []).ee with hi := 0xAA#128, lo := 0xBB#128 } })
      (fun s => s.eeReg 2 == 0xAA#128) = true ∧
    gives (exec (.mflo 2) { started .ee [] with ee := { (started .ee []).ee with hi := 0xAA#128, lo := 0xBB#128 } })
      (fun s => s.eeReg 2 == 0xBB#128) = true := by decide

/-- R300, R301. -/
theorem test_mthi_mtlo :
    eeHiLo (.mthi 1) [(1, 0x12345678)] 0x12345678#128 0#128 = true ∧
    iopHiLo (.mtlo 1) [(1, 0x12345678)] 0#32 0x12345678#32 = true := by decide

/-! ### EE doubleword and conditional moves (section 2.4) -/

theorem test_daddu : ee (.daddu 3 1 2) [(1, 0xFFFFFFFFFFFFFFFF), (2, 1)] 3 0#128 = true := by decide

theorem test_dsubu : ee (.dsubu 3 1 2) [(2, 1)] 3 0xFFFFFFFFFFFFFFFF#128 = true := by decide

theorem test_daddiu : ee (.daddiu 2 1 0xFFFF) [(1, 0x100000000)] 2 0xFFFFFFFF#128 = true := by decide

theorem test_movz :
    ee (.movz 3 1 2) [(1, 7)] 3 7#128 = true ∧ ee (.movz 3 1 2) [(1, 7), (2, 1), (3, 9)] 3 9#128 = true := by decide

theorem test_movn :
    ee (.movn 3 1 2) [(1, 7), (3, 9)] 3 9#128 = true ∧
    ee (.movn 3 1 2) [(1, 7), (2, 0x100000000)] 3 7#128 = true := by decide

/-! ### EE multimedia (section 2.5) -/

theorem test_paddw :
    ee (.paddw 3 1 2) [(1, 0x000000030000000200000001FFFFFFFF), (2, 0x00000001000000010000000100000001)] 3
      0x00000004000000030000000200000000#128 = true ∧
    ee (.paddw 3 1 2) [(1, 0x7FFFFFFF), (2, 1)] 3 0x80000000#128 = true := by decide

theorem test_psubw :
    ee (.psubw 3 1 2) [(1, 0x00000005000000050000000500000000), (2, 0x00000001000000010000000100000001)] 3
      0x000000040000000400000004FFFFFFFF#128 = true := by decide

theorem test_pand :
    ee (.pand 3 1 2) [(1, 2 ^ 128 - 1), (2, 0x0F0F0F0F0F0F0F0F0F0F0F0F0F0F0F0F)] 3
      0x0F0F0F0F0F0F0F0F0F0F0F0F0F0F0F0F#128 = true := by decide

theorem test_por :
    ee (.por 3 1 0) [(1, 0x00112233445566778899AABBCCDDEEFF)] 3 0x00112233445566778899AABBCCDDEEFF#128 = true := by
  decide

theorem test_pxor : ee (.pxor 3 1 1) [(1, 2 ^ 128 - 5), (3, 7)] 3 0#128 = true := by decide

theorem test_pnor : ee (.pnor 3 0 0) [] 3 0xFFFFFFFFFFFFFFFFFFFFFFFFFFFFFFFF#128 = true := by decide

theorem test_pcpyld :
    ee (.pcpyld 3 1 2) [(1, 0xAAAA), (2, 0xBBBB)] 3 0x000000000000AAAA000000000000BBBB#128 = true := by decide

theorem test_pcpyud :
    ee (.pcpyud 3 1 2) [(1, 0x000000000000000A000000000000000B), (2, 0x000000000000000C000000000000000D)] 3
      0x000000000000000C000000000000000A#128 = true := by decide

/-! ### Branches and jumps (section 2.6) -/

theorem test_beq : branches .ee 0x10220001#32 [(1, 5), (2, 5)] 0x80001004#32 (some 0x80001008#32) = true := by decide

theorem test_bne : branches .ee 0x14220001#32 [(1, 5), (2, 5)] 0x80001004#32 none = true := by decide

theorem test_blez : branches .ee 0x18200004#32 [] 0x80001004#32 (some 0x80001014#32) = true := by decide

theorem test_bgtz : branches .ee 0x1C200004#32 [] 0x80001004#32 none = true := by decide

theorem test_bltz :
    branches .ee 0x04200004#32 [(1, 0x80000000)] 0x80001004#32 none = true ∧
    branches .iop 0x04200004#32 [(1, 0x80000000)] 0x80001004#32 (some 0x80001014#32) = true := by decide

theorem test_bgez : branches .ee 0x0401FFFF#32 [] 0x80001004#32 (some 0x80001000#32) = true := by decide

theorem test_bltzal :
    branches .ee 0x04100004#32 [] 0x80001004#32 none = true ∧
    ee (.bltzal 0 4) [] 31 0xFFFFFFFF80001008#128 = true := by decide

theorem test_bgezal :
    branches .iop 0x04310004#32 [(1, 0xFFFFFFFF)] 0x80001004#32 none = true ∧
    iop (.bgezal 1 4) [(1, 0xFFFFFFFF)] 31 0x80001008#32 = true := by decide

theorem test_beql :
    branches .ee 0x50200002#32 [(1, 1)] 0x80001008#32 none = true ∧
    branches .ee 0x50000002#32 [] 0x80001004#32 (some 0x8000100C#32) = true := by decide

theorem test_bnel : branches .ee 0x54000002#32 [] 0x80001008#32 none = true := by decide

/-- R228, R229: 0 is not greater than 0. -/
theorem test_blezl_bgtzl :
    branches .ee 0x58000002#32 [] 0x80001004#32 (some 0x8000100C#32) = true ∧
    branches .ee 0x5C000002#32 [] 0x80001008#32 none = true := by decide

/-- R230, R231: 0 is not less than 0. -/
theorem test_bltzl_bgezl :
    branches .ee 0x04020002#32 [] 0x80001008#32 none = true ∧
    branches .ee 0x04030002#32 [] 0x80001004#32 (some 0x8000100C#32) = true := by decide

/-- R234: not taken, the slot is skipped and the link is written. -/
theorem test_bltzall :
    branches .ee 0x04120002#32 [] 0x80001008#32 none = true ∧
    ee (.bltzall 0 2) [] 31 0xFFFFFFFF80001008#128 = true := by decide

theorem test_bgezall :
    branches .ee 0x04130002#32 [] 0x80001004#32 (some 0x8000100C#32) = true ∧
    ee (.bgezall 0 2) [] 31 0xFFFFFFFF80001008#128 = true := by decide

theorem test_j : branches .ee 0x08010000#32 [] 0x80001004#32 (some 0x80040000#32) = true := by decide

theorem test_jal :
    branches .ee 0x0C000400#32 [] 0x80001004#32 (some 0x80001000#32) = true ∧
    ee (.jal 0x400) [] 31 0xFFFFFFFF80001008#128 = true := by decide

theorem test_jr : branches .ee 0x00200008#32 [(1, 0x80002000)] 0x80001004#32 (some 0x80002000#32) = true := by decide

/-- The link register as the jump base: rs is read before rd is written. -/
theorem test_jalr :
    branches .iop 0x03E0F809#32 [(31, 0x80002000)] 0x80001004#32 (some 0x80002000#32) = true ∧
    iop (.jalr 31 31) [(31, 0x80002000)] 31 0x80001008#32 = true := by decide

/-- A branch in a delay slot faults (section 2.6, corner vectors). -/
theorem test_branch_in_delay_slot :
    faults (step (inSlot (running .ee 0x10000001#32 []) 0x80001008#32)) (.branchInDelaySlot 0x80001000#32) = true ∧
    faults (step (inSlot (running .ee 0x50000001#32 []) 0x80001008#32)) (.branchInDelaySlot 0x80001000#32) = true ∧
    faults (step (inSlot (running .ee 0x42000018#32 []) 0x80001008#32)) (.branchInDelaySlot 0x80001000#32) = true := by
  decide

/-! ### Loads and stores (section 2.7) -/

theorem test_lb :
    gives (exec (.lb 2 4 0) (eeData [0x80])) (fun s => s.eeReg 2 == 0xFFFFFFFFFFFFFF80#128) = true ∧
    gives (exec (.lb 2 4 0) (iopData [0x80])) (fun s => s.iopReg 2 == 0xFFFFFF80#32) = true := by decide

theorem test_lbu : gives (exec (.lbu 2 4 0) (eeData [0x80])) (fun s => s.eeReg 2 == 0x80#128) = true := by decide

theorem test_lh :
    gives (exec (.lh 2 4 0) (eeData [0x00, 0x80])) (fun s => s.eeReg 2 == 0xFFFFFFFFFFFF8000#128) = true ∧
    faults (exec (.lh 2 4 1) (eeData [0x00, 0x80])) (.misaligned 0x80000101#32 2) = true := by decide

theorem test_lhu : gives (exec (.lhu 2 4 0) (iopData [0x00, 0x80])) (fun s => s.iopReg 2 == 0x8000#32) = true := by
  decide

theorem test_lw :
    gives (exec (.lw 2 4 0) (eeData [0, 0, 0, 0x80])) (fun s => s.eeReg 2 == 0xFFFFFFFF80000000#128) = true ∧
    faults (exec (.lw 2 4 2) (eeData [])) (.misaligned 0x80000102#32 4) = true := by decide

theorem test_lwu :
    gives (exec (.lwu 2 4 0) (eeData [0, 0, 0, 0x80])) (fun s => s.eeReg 2 == 0x80000000#128) = true := by decide

theorem test_ld :
    gives (exec (.ld 2 4 0) (eeData [1, 2, 3, 4, 5, 6, 7, 8])) (fun s => s.eeReg 2 == 0x0807060504030201#128) = true ∧
    faults (exec (.ld 2 4 4) (eeData [])) (.misaligned 0x80000104#32 8) = true := by decide

theorem test_lq :
    gives (exec (.lq 2 4 9) (eeData [0, 1, 2, 3, 4, 5, 6, 7, 8, 9, 10, 11, 12, 13, 14, 15]))
      (fun s => s.eeReg 2 == 0x0F0E0D0C0B0A09080706050403020100#128) = true := by decide

theorem test_sw :
    gives (exec (.sw 5 4 0) ((eeData []).setEeReg 5 0xDEADBEEF#128))
      (fun s => s.mem == [(0x100, 0xEF), (0x101, 0xBE), (0x102, 0xAD), (0x103, 0xDE)]) = true ∧
    gives (exec (.sw 0 4 0) (eeData [1, 2, 3, 4, 5])) (fun s => s.mem == [(0x104, 5)]) = true := by decide

theorem test_sb :
    gives (exec (.sb 5 4 3) ((eeData [0xEF, 0xBE, 0xAD, 0xDE]).setEeReg 5 0x12345678#128))
      (fun s => s.mem.readLE 0x100 4 == 0x78ADBEEF#128) = true := by decide

theorem test_sh :
    gives (exec (.sh 5 4 2) ((iopData []).setIopReg 5 0xFFFF1234#32))
      (fun s => s.mem == [(0x1C000102, 0x34), (0x1C000103, 0x12)]) = true := by decide

theorem test_sd :
    gives (exec (.sd 5 4 0) ((eeData []).setEeReg 5 0x1122334455667788#128))
      (fun s => s.mem.read 0x100 == 0x88#8 && s.mem.read 0x107 == 0x11#8 && s.mem.read 0x108 == 0#8) = true := by decide

theorem test_sq :
    gives (exec (.sq 5 4 7) ((eeData []).setEeReg 5 0x0F0E0D0C0B0A09080706050403020100#128))
      (fun s => s.mem.readLE 0x100 16 == 0x0F0E0D0C0B0A09080706050403020100#128) = true := by decide

/-- The address-space vectors: the EE's windows, the scratchpad and its edge, the ROM, an unmapped fetch, MMIO sizes,
unhandled addresses, IsC. -/
theorem test_address_space :
    reads (memRead (eeData [0x55]) 0x30000100#32 1) 0x55#128 = true ∧
    reads (memRead (eeData [0x55]) 0xA0000100#32 1) 0x55#128 = true ∧
    reads (memRead (eeData [0x55]) 0x70000100#32 1) 0#128 = true ∧
    translate .ee 0x70004000#32 = 0x10004000#32 ∧
    readFaults (memRead (eeData []) 0x14000000#32 4) (.unhandledMmio 0x14000000#32 4 false) = true ∧
    readFaults (memRead (eeData []) 0x1000F000#32 2) (.unhandledMmio 0x1000F000#32 2 false) = true ∧
    faults (memWrite (eeData []) 0xBFC00000#32 4 0#128) (.romWrite 0x1FC00000#32) = true ∧
    faults (step ((running .ee 0#32 []).setPc 0x90000000#32)) (.unmappedAccess 0x90000000#32 4 false) = true ∧
    gives (memWrite ((iopData []).setStatus 0x00010000#32) 0x100#32 4 7#128) (fun s => s.mem == []) = true := by decide

theorem test_iop_ram_is_shared :
    gives (memWrite (started .ee []) 0xBC000400#32 4 0x12345678#128) (fun s =>
      reads (memRead { s with turn := .cpu .iop } 0xA0600400#32 4) 0x12345678#128) = true ∧
    gives (memWrite (started .iop []) 0x1F800004#32 4 7#128) (fun s =>
      reads (memRead s 0x1F800404#32 4) 7#128) = true := by decide

/-- An external range answers a draw and records a write (20_memory.md R123). -/
theorem test_external_range :
    gives (memWrite (started .ee []) 0x12000000#32 4 0xABCD#128) (fun s =>
      s.extWrites == [{ cpu := .ee, pa := 0x12000000#32, n := 4, value := 0xABCD#128 }] && s.mem == []) = true ∧
    gives (exec (.lw 2 4 0) (started .ee [(4, 0x12000000)])) (fun s => s.draws == 1) = true := by decide

/-! ### System instructions and exceptions (sections 2.8 and 2.9) -/

theorem test_sync_cache :
    gives (exec (.sync 0) (started .ee [])) (fun s => s == started .ee []) = true ∧
    gives (exec (.cache 7 4 0) (started .ee [])) (fun s => s == started .ee []) = true := by decide

theorem test_tlb_operations :
    gives (exec .tlbp (started .ee [])) (fun s => s == started .ee []) = true ∧
    gives (exec .tlbr (started .ee [])) (fun s => s == started .ee []) = true ∧
    gives (exec .tlbwi (started .ee [])) (fun s => s == started .ee []) = true ∧
    gives (exec .tlbwr (started .ee [])) (fun s => s == started .ee []) = true ∧
    refuses (exec .tlbp (started .iop [])) (.notAdmitted 0x42000008#32 0x80001000#32) = true := by decide

theorem test_mfc0_prid :
    ee (.mfc0 2 15) [] 2 0x2E20#128 = true ∧ iop (.mfc0 2 15) [] 2 0x1F#32 = true := by decide

/-- `mfc0` of EPC sign-extends, and of Cause reads the live lines (sections 2.8 and 2.10). -/
theorem test_mfc0 :
    gives (exec (.mfc0 2 14) ((started .ee []).setCtl { (started .ee []).ctl with epc := 0x80001000#32 }))
      (fun s => s.eeReg 2 == 0xFFFFFFFF80001000#128) = true ∧
    gives (exec (.mfc0 2 13) { started .ee [] with eeIntc := { stat := 4, mask := 4 } })
      (fun s => s.eeReg 2 == 0x400#128) = true := by decide

theorem test_mtc0_status_cause :
    enters (running .ee 0x40816000#32 [(1, 0xF0400000)]) 0#32 0#32 0xF0400000#32 0x80001004#32 = true ∧
    enters (running .ee 0x40816800#32 [(1, 0xFFFFFFFF)]) 0#32 0#32 0#32 0x80001004#32 = true ∧
    enters (running .iop 0x40816800#32 [(1, 0xFFFFFFFF)]) 0#32 0x300#32 0#32 0x80001004#32 = true := by decide

theorem test_mtc0_count_compare :
    gives (cpuStep (running .ee 0x40814800#32 [(1, 0x100)])) (fun s => s.ee.count == 0x101#32) = true ∧
    gives (exec (.mtc0 1 11) ((started .ee [(1, 0x50)]).setCtl { (started .ee []).ctl with cause := 0x8000#32 }))
      (fun s => s.ee.compare == 0x50#32 && s.ee.ctl.cause == 0#32) = true := by decide

theorem test_ei : enters (runningIn .ee 0x401#32 0x42000038#32 []) 0#32 0#32 0x10401#32 0x80001004#32 = true := by decide

theorem test_di : enters (runningIn .ee 0x10401#32 0x42000039#32 []) 0#32 0#32 0x401#32 0x80001004#32 = true := by decide

/-- A state about to return: Status, EPC and the EE's ErrorEPC. -/
def returning (c : Cpu) (status epc errorEpc : Word) (w : Word) : State :=
  let s := runningIn c status w []
  let t := s.setCtl { s.ctl with epc := epc }
  { t with ee := { t.ee with errorEpc := errorEpc } }

theorem test_eret :
    enters (returning .ee 0x00010403#32 0x80001234#32 0#32 0x42000018#32) 0x80001234#32 0#32 0x00010400#32 0x80001234#32
      = true ∧
    enters (returning .ee 0x00010407#32 0x80001234#32 0x80005000#32 0x42000018#32) 0x80001234#32 0#32 0x00010400#32
      0x80005000#32 = true := by decide

/-- D12 and program P6: Status 0x0C gives 0x03 (log 24). -/
theorem test_rfe :
    enters (returning .iop 0x0C#32 0x80001000#32 0#32 0x42000010#32) 0x80001000#32 0#32 0x03#32 0x80001000#32 = true := by
  decide

theorem test_syscall :
    enters (runningIn .ee 0x00010401#32 0x0000000C#32 []) 0x80001000#32 0x20#32 0x00010403#32 0x80000180#32 = true ∧
    enters (runningIn .ee 0x00400000#32 0x0000000C#32 []) 0x80001000#32 0x20#32 0x00400002#32 0xBFC00380#32 = true ∧
    enters (runningIn .iop 0x00000401#32 0x0000000C#32 []) 0x80001000#32 0x20#32 0x00000404#32 0x80000080#32 = true := by
  decide

/-- In the delay slot of a branch, EPC is the branch and BD is set (section 1.8, vector B). -/
theorem test_syscall_in_delay_slot :
    enters (inSlot (running .ee 0x0000000C#32 []) 0x80001010#32) 0x80000FFC#32 0x80000020#32 2#32 0x80000180#32 = true := by
  decide

theorem test_break :
    enters (running .ee 0x0000024D#32 []) 0x80001000#32 0x24#32 2#32 0x80000180#32 = true ∧
    enters (running .iop 0x0000024D#32 []) 0x80001000#32 0x24#32 0#32 0x80000080#32 = true := by decide

/-- The Count compare interrupt, the IOP line and the IOP software interrupt (section 2.9). -/
theorem test_interrupts :
    enters (let s := runningIn .ee 0x00018001#32 0#32 []; { s with ee := { s.ee with count := 99#32, compare := 100#32 } })
      0x80001004#32 0x8000#32 0x00018003#32 0x80000200#32 = true ∧
    enters { runningIn .iop 0x00000401#32 0#32 [] with iopIntc := { stat := 8, mask := 8, ctrl := 0 } }
      0x80001004#32 0#32 0x00000404#32 0x80000080#32 = true ∧
    enters (runningIn .iop 0x00000101#32 0x40816800#32 [(1, 0x100)])
      0x80001004#32 0x100#32 0x00000104#32 0x80000080#32 = true := by decide

/-! ### Devices (sections 2.10 to 2.13) -/

/-- Acknowledge by writing 1, toggle by writing 1 (section 2.10). -/
theorem test_intc :
    gives (mmioWrite .ee { started .ee [] with eeIntc := { stat := 0x0204, mask := 0 } } 0x1000F000#32 4 4#128)
      (fun s => s.eeIntc.stat == 0x0200#15) = true ∧
    gives (mmioWrite .ee { started .ee [] with eeIntc := { stat := 0, mask := 4 } } 0x1000F010#32 4 0x0201#128)
      (fun s => s.eeIntc.mask == 0x0205#15) = true ∧
    gives (mmioWrite .iop { started .iop [] with iopIntc := { stat := 9, mask := 0, ctrl := 0 } } 0x1F801070#32 4 8#128)
      (fun s => s.iopIntc.stat == 1#32) = true := by decide

/-- Channel 9, toSPR, three quadwords: the first tick and the last (section 1.5). -/
theorem test_ee_dma_direct :
    gives (eeDmacTick (eeChannelIs 9 (toSpr 0x100#32 0x00100000#32 3 0#32 .active true)))
      (fun s => s.eeChannel 9 == toSpr 0x100#32 0x00100010#32 2 0x10#32 .active true) = true ∧
    gives (eeDmacTick (eeChannelIs 9 (toSpr 0x100#32 0x00100020#32 1 0x20#32 .active true)))
      (fun s => s.eeChannel 9 == toSpr 0#32 0x00100030#32 0 0x30#32 .idle true && s.eeDmac.dStat == 0x200#32) = true := by
  decide

/-- The first tick of the chain of section 2.11: the cnt tag. -/
theorem test_ee_dma_tag :
    gives (eeDmacTick (withWord (eeChannelIs 9 { toSpr 0x104#32 0#32 0 0#32 .tagFetch false with tadr := 0x00200000#32 })
        0x00200000 0x10000001#32))
      (fun s => s.eeChannel 9 ==
        { toSpr 0x10000104#32 0x00200010#32 1 0#32 .active false with tadr := 0x00200020#32 }) = true := by decide

/-- MOD = 2 and 3, and a chain on channel 8 (section 2.11). -/
theorem test_ee_dma_stops :
    refuses (mmioWrite .ee State.reset 0x1000D400#32 4 0x108#128) (.dmaMode .ee 9 .interleave) = true ∧
    faults (mmioWrite .ee State.reset 0x1000D400#32 4 0x10C#128) (.dmaBadControl .ee 9 0x10C#32) = true ∧
    refuses (mmioWrite .ee State.reset 0x1000D000#32 4 0x104#128) (.dmaMode .ee 8 .destChain) = true ∧
    refuses (mmioWrite .iop State.reset 0x1F8010C8#32 4 0x01000401#128) (.dmaMode .iop 4 (.iopSync 2)) = true := by decide

/-- The last tick of IOP channel 4 (section 2.11). -/
theorem test_iop_dma :
    gives (iopDmacTick (iopChannelIs 4 (fromIop 0x01000001#32 0x1004#32 1#32 .active) 0x00100000#32))
      (fun s => s.iopChannel 4 == fromIop 1#32 0x1008#32 0#32 .idle &&
        s.iopDmac.dicr == 0x10100000#32 && s.readDicr == 0x90100000#32 && s.iopIntc.stat == 8#32) = true := by decide

/-- The third cycle of the example of R545, and the overflow of IOP timer 0 (section 2.12). -/
theorem test_timers :
    (let s := eeTimerIncrement 0 (State.reset.setEeTimer 0 { EeTimer.reset with count := 2, comp := 3, mode := 0x1C0#32 });
      (s.eeTimer 0).count = 0 ∧ (s.eeTimer 0).mode = 0x5C0#32 ∧ s.eeIntc.stat = 0x200#15) ∧
    ((iopTimerIncrement 0 (State.reset.setIopTimer 0 { IopTimer.reset with count := 0xFFFF#32 })).iopTimer 0).count = 0 ∧
    ((iopTimerIncrement 3 (State.reset.setIopTimer 3 { IopTimer.reset with count := 0xFFFF#32 })).iopTimer 3).count
      = 0x10000#32 := by decide

/-- Deadlines 50, 10 and 30 stand in the order 10, 30, 50; a cancelled event is gone (sections 1.3 and 1.4). -/
theorem test_scheduler :
    let s : State := { State.reset with sched := { now := 0, queue := [] } }
    (((s.addEvent 50 none .hblank).addEvent 10 (some 7) .hblank).addEvent 30 none .hblank).sched.queue.map
      (fun e => e.deadline) = [10#64, 30#64, 50#64] ∧
    ((s.addEvent 10 (some 7) .hblank).cancelEvent 7).sched.queue = [] := by decide

/-! ## Witnesses: for every obligation with hypotheses, a state and operands that meet them

A theorem `witness_<Name>` belongs to `Obligations.<Name>`. `witness_both_cpus` is the one of the statements whose only
hypotheses are the executing CPU and, for branches and ERET, being in a delay slot or not:
DoublewordShiftsComplete, MultimediaCompletes, ConditionalBranchesComplete, LikelyBranchesComplete,
LinkingBranchesComplete, JumpsComplete, StoresWriteTheLowBytes, BarriersAndTlbOperationsChangeNothing, EretReturns and
RfePopsTheStack. The others have no hypothesis. -/

/-- The outcome is a next state. -/
def completes (o : Out) : Bool := gives o fun _ => true

/-- The next state of an outcome. -/
def after (o : Out) : State :=
  match o with
  | .next s => s
  | _ => State.reset

theorem next_after {o : Out} (h : completes o = true) : o = .next (after o) := by
  cases o <;> simp_all [completes, gives, after]

theorem fetch_of_fetched {s : State} {w : Word} (h : fetched s = some w) : fetch s = .ok w := by
  unfold fetched at h
  split at h <;> simp_all

theorem witness_both_cpus :
    (started .ee []).cpu = .ee ∧ (started .iop []).cpu = .iop ∧
    (started .ee []).ctl.inDelaySlot = false ∧ (started .iop []).ctl.inDelaySlot = false ∧
    (inSlot (started .ee []) 0).cpu = .ee ∧ (inSlot (started .ee []) 0).ctl.inDelaySlot = true ∧
    (inSlot (started .iop []) 0).cpu = .iop ∧ (inSlot (started .iop []) 0).ctl.inDelaySlot = true := by decide +kernel

/-! ### Encoding and one step -/

theorem witness_EncodeDecodeRoundTrip :
    (Instr.beq 31 0 0xFFFF).wellFormed .ee = true ∧ (Instr.beq 31 0 0xFFFF).wellFormed .iop = true ∧
    (Instr.sd 31 31 0xFFFF).wellFormed .ee = true ∧ Instr.rfe.wellFormed .iop = true := by decide +kernel

theorem witness_DecodedInstructionsAreAdmitted :
    decode .ee 0xFFFFFFFF#32 = .instr (.sd 31 31 0xFFFF) ∧ decode .iop 0x42000010#32 = .instr .rfe := by decide +kernel

/-- The word at pc is fetched, and the step is illegal. -/
def stepsIllegal (c : Cpu) (w : Word) : Bool :=
  fetched (running c w []) == some w && faults (step (running c w [])) (.illegalInstruction w 0x80001000#32)

/-- The word at pc is fetched, and the step is refused as not admitted. -/
def stepsNotAdmitted (c : Cpu) (w : Word) : Bool :=
  fetched (running c w []) == some w && refuses (step (running c w [])) (.notAdmitted w 0x80001000#32)

/-- The word at pc is fetched, and the step is refused as an external coprocessor's. -/
def stepsExternal (c : Cpu) (w : Word) : Bool :=
  fetched (running c w []) == some w && refuses (step (running c w [])) (.externalCoprocessor w 0x80001000#32)

/-- The ends of every list of the statement: opcodes, functs, rt and rs fields. -/
theorem witness_EmptyAndRefusedWordsStop :
    ([0x4C000000#32, 0xF4000000#32, 0x00000001#32, 0x0000003D#32, 0x04040000#32, 0x041F0000#32, 0x40200000#32,
      0x43E00000#32].Forall fun w => stepsIllegal .ee w = true ∧ stepsIllegal .iop w = true) ∧
    ([0x44000000#32, 0xFC000000#32, 0x0000000A#32, 0x0000003F#32, 0x04020000#32, 0x04190000#32, 0x41000000#32].Forall fun w =>
      stepsIllegal .iop w = true) ∧
    ([0x88000000#32, 0xB8000000#32].Forall fun w => stepsNotAdmitted .ee w = true ∧ stepsNotAdmitted .iop w = true) ∧
    ([0x44000000#32, 0xF8000000#32].Forall fun w => stepsExternal .ee w = true) ∧
    ([0x60000000#32, 0xCC000000#32, 0x00000028#32, 0x00000036#32, 0x04080000#32, 0x04190000#32, 0x70000000#32,
      0x7000003F#32, 0x41000000#32, 0x42000000#32, 0x4200003F#32].Forall fun w => stepsNotAdmitted .ee w = true) ∧
    ([0x42000000#32, 0x4200003F#32].Forall fun w => stepsNotAdmitted .iop w = true) := by decide +kernel

/-- The hypotheses of `StepRunsDecodedInstruction`. -/
abbrev Fetches (s : State) (c : Cpu) (r : Region) (i : Instr) : Prop :=
  s.turn = .cpu c ∧ s.pc.toNat % 4 = 0 ∧ pageEntry c (translate c s.pc) = some r ∧
  decodeBytes c [s.mem.read (regionKey r (translate c s.pc)), s.mem.read (regionKey r (translate c s.pc) + 1),
    s.mem.read (regionKey r (translate c s.pc) + 2), s.mem.read (regionKey r (translate c s.pc) + 3)] = some (.instr i)

/-- An instruction that completes on each CPU, one that faults and one that is refused (a start of an EE DMA channel
in interleave mode). -/
theorem witness_StepRunsDecodedInstruction :
    (Fetches (running .ee 0x00221821#32 []) .ee Config.eeRegions[0] (.addu 3 1 2) ∧
      completes (exec (.addu 3 1 2) (running .ee 0x00221821#32 [])) = true) ∧
    (Fetches (running .iop 0x00221821#32 []) .iop Config.iopRegions[0] (.addu 3 1 2) ∧
      completes (exec (.addu 3 1 2) (running .iop 0x00221821#32 [])) = true) ∧
    (Fetches (inSlot (running .ee 0x10000001#32 []) 0) .ee Config.eeRegions[0] (.beq 0 0 1) ∧
      faults (exec (.beq 0 0 1) (inSlot (running .ee 0x10000001#32 []) 0)) (.branchInDelaySlot 0x80001000#32) = true) ∧
    (Fetches (running .ee 0xAC220000#32 [(1, 0x1000D400), (2, 0x108)]) .ee Config.eeRegions[0] (.sw 2 1 0) ∧
      refuses (exec (.sw 2 1 0) (running .ee 0xAC220000#32 [(1, 0x1000D400), (2, 0x108)]))
        (.dmaMode .ee 9 .interleave) = true) := by decide +kernel

/-- pc misaligned by 1 and by 3; pages absent; the first and last page of RAM, the ROM's first and last, the
scratchpad's last and an IOP mirror. -/
theorem witness_FetchReadsThePageOrFaults :
    ([0x80001001#32, 0x80001003#32].Forall fun pc => pc.toNat % 4 ≠ 0) ∧
    ([0x82000000#32, 0x90000000#32].Forall fun pc => pc.toNat % 4 = 0 ∧ pageEntry .ee (translate .ee pc) = none) ∧
    ([0x80800000#32, 0xBF801000#32].Forall fun pc => pc.toNat % 4 = 0 ∧ pageEntry .iop (translate .iop pc) = none) ∧
    ([0x80000000#32, 0x81FFFFFC#32, 0xBFC00000#32, 0xBFFFFFFC#32, 0x70003FFC#32].Forall fun pc =>
      pc.toNat % 4 = 0 ∧ ((pageEntry .ee (translate .ee pc)).isSome = true ∧
        ((started .ee []).setPc pc).turn = .cpu .ee ∧ ((started .ee []).setPc pc).pc = pc)) ∧
    ([0x80000000#32, 0x807FFFFC#32, 0xBFC00000#32].Forall fun pc => pc.toNat % 4 = 0 ∧
      ((pageEntry .iop (translate .iop pc)).isSome = true ∧
        ((started .iop []).setPc pc).turn = .cpu .iop ∧ ((started .iop []).setPc pc).pc = pc)) := by decide +kernel

/-- `beq r0, r0, +1` and `addiu r1, r0, 5` in its slot (section 1.2). -/
def branchAndSlot : State := withWord (running .ee 0x10000001#32 []) 0x1004 0x24010005#32

/-- The state in the slot. -/
def slotState : State := after (cpuStep branchAndSlot)

theorem witness_DelaySlotRunsBeforeTheTarget :
    branchAndSlot.ctl.inDelaySlot = false ∧ branchAndSlot.ctl.branchPending = false ∧
    fetch branchAndSlot = .ok 0x10000001#32 ∧ decode branchAndSlot.cpu 0x10000001#32 = .instr (.beq 0 0 1) ∧
    exec (.beq 0 0 1) branchAndSlot = .next (after (exec (.beq 0 0 1) branchAndSlot)) ∧
    (after (exec (.beq 0 0 1) branchAndSlot)).ctl = branchAndSlot.ctl.requesting 0x80001008#32 ∧
    (countTick (advance (after (exec (.beq 0 0 1) branchAndSlot)))).interruptTaken = false ∧
    cpuStep branchAndSlot = .next slotState ∧
    fetch slotState = .ok 0x24010005#32 ∧ decode slotState.cpu 0x24010005#32 = .instr (.addiu 1 0 5) ∧
    exec (.addiu 1 0 5) slotState = .next (after (exec (.addiu 1 0 5) slotState)) ∧
    (after (exec (.addiu 1 0 5) slotState)).ctl = slotState.ctl ∧
    (countTick (advance (after (exec (.addiu 1 0 5) slotState)))).interruptTaken = false ∧
    slotState.ctl.inDelaySlot = true ∧ slotState.ctl.branchTarget = 0x80001008#32 := by
  refine ⟨by decide +kernel, by decide +kernel, fetch_of_fetched (by decide +kernel), by decide +kernel,
    next_after (by decide +kernel), by decide +kernel, by decide +kernel, next_after (by decide +kernel),
    fetch_of_fetched (by decide +kernel), by decide +kernel, next_after (by decide +kernel), by decide +kernel,
    by decide +kernel,
    by decide +kernel, by decide +kernel⟩

/-! ### Arithmetic -/

/-- The four ends of the range, and one beyond each: the sum, the difference, and the sum with an immediate. -/
theorem witness_TrappingAdditionsCompleteOrTrap :
    let s := started .ee [(1, 0x7FFFFFFE), (2, 1), (3, 0x80000001), (4, 0xFFFFFFFF), (5, 0x7FFFFFFF), (6, 0x80000000)]
    ((0x7FFFFFFF#32).toInt = (s.r32 1).toInt + (s.r32 2).toInt ∧
      (0x80000000#32).toInt = (s.r32 3).toInt + (s.r32 4).toInt ∧
      (s.r32 5).toInt + (s.r32 2).toInt = 2 ^ 31 ∧ (s.r32 6).toInt + (s.r32 4).toInt = -(2 ^ 31) - 1) ∧
    ((0x7FFFFFFF#32).toInt = (s.r32 1).toInt - (s.r32 4).toInt ∧
      (0x80000000#32).toInt = (s.r32 3).toInt - (s.r32 2).toInt ∧
      (s.r32 5).toInt - (s.r32 4).toInt = 2 ^ 31 ∧ (s.r32 6).toInt - (s.r32 2).toInt = -(2 ^ 31) - 1) ∧
    ((0x7FFFFFFF#32).toInt = (s.r32 1).toInt + (1#16).toInt ∧
      (0x80000000#32).toInt = (s.r32 3).toInt + (0xFFFF#16).toInt ∧
      (s.r32 5).toInt + (1#16).toInt = 2 ^ 31 ∧ (s.r32 6).toInt + (0xFFFF#16).toInt = -(2 ^ 31) - 1) := by decide +kernel

/-- Division by zero of both signs, the overflow, an ordinary division, and one that only its divisor or only its
dividend shares with the overflow. -/
theorem witness_DividesComplete :
    let s := started .iop [(1, 5), (2, 0xFFFFFFFB), (3, 0x80000000), (4, 0xFFFFFFFF)]
    (s.r32 0 = 0 ∧ 0 ≤ (s.r32 1).toInt ∧ (s.r32 2).toInt < 0) ∧
    (s.r32 3 = 0x80000000#32 ∧ s.r32 4 = 0xFFFFFFFF#32) ∧
    (s.r32 2 ≠ 0 ∧ ¬ (s.r32 1 = 0x80000000#32 ∧ s.r32 2 = 0xFFFFFFFF#32)) ∧
    (s.r32 4 ≠ 0 ∧ ¬ (s.r32 1 = 0x80000000#32 ∧ s.r32 4 = 0xFFFFFFFF#32)) ∧
    (s.r32 1 ≠ 0 ∧ ¬ (s.r32 3 = 0x80000000#32 ∧ s.r32 1 = 0xFFFFFFFF#32)) := by decide +kernel

/-- rt zero in its low 64 bits alone, rt not zero in its upper word alone, and the IOP. -/
theorem witness_DoublewordAdditionsAndMovesComplete :
    let s := started .ee [(1, 0x10000000000000000), (2, 0x100000000)]
    s.cpu = .ee ∧ s.ee64 1 = 0 ∧ s.eeReg 1 ≠ 0 ∧ s.ee64 2 ≠ 0 ∧ (started .iop []).cpu = .iop := by decide +kernel

/-! ### Memory -/

/-- Each size misaligned by 1 and by its size less 1; the last byte, halfword, word, doubleword and quadword of a
region; and the first address beyond. -/
theorem witness_MemReadFollowsItsRule :
    let s := started .ee []
    ([(0x101#32, 2), (0x101#32, 4), (0x103#32, 4), (0x101#32, 8), (0x107#32, 8)].Forall fun c =>
      (c.2 = 2 ∨ c.2 = 4 ∨ c.2 = 8) ∧ (c.1).toNat % c.2 ≠ 0) ∧
    ([(0x01FFFFFF#32, 1), (0x01FFFFFE#32, 2), (0x01FFFFFC#32, 4), (0x01FFFFF8#32, 8), (0x01FFFFF0#32, 16),
      (0x1FFFFFFC#32, 4), (0x70003FFC#32, 4)].Forall fun c => ¬ ((c.2 = 2 ∨ c.2 = 4 ∨ c.2 = 8) ∧ (c.1).toNat % c.2 ≠ 0) ∧
      (pageEntry s.cpu (translate s.cpu c.1)).isSome = true ∧ c.2 ≤ 16) ∧
    ([(0x02000000#32, 1), (0x1000F000#32, 4), (0x70004000#32, 4)].Forall fun c =>
      ¬ ((c.2 = 2 ∨ c.2 = 4 ∨ c.2 = 8) ∧ (c.1).toNat % c.2 ≠ 0) ∧
      pageEntry s.cpu (translate s.cpu c.1) = none) := by decide +kernel

/-- The IOP with IsC set and clear, the EE with that bit set, a misaligned store, a writable page, the ROM and an
unmapped address. -/
theorem witness_MemWriteFollowsItsRule :
    let isolated := (started .iop []).setStatus 0x00010000#32
    let s := started .iop []
    let e := (started .ee []).setStatus 0x00010000#32
    (isolated.cpu = .iop ∧ isolated.iop.ctl.status.getLsbD 16 = true) ∧
    ¬ (s.cpu = .iop ∧ s.iop.ctl.status.getLsbD 16 = true) ∧ ¬ (e.cpu = .iop ∧ e.iop.ctl.status.getLsbD 16 = true) ∧
    (0x103#32).toNat % 4 ≠ 0 ∧
    pageEntry s.cpu (translate s.cpu 0x007FFFFC#32) = some Config.iopRegions[0] ∧
    (Config.iopRegions[0]).writable = true ∧
    pageEntry s.cpu (translate s.cpu 0xBFC00000#32) = some Config.iopRegions[2] ∧
    (Config.iopRegions[2]).writable = false ∧
    pageEntry e.cpu (translate e.cpu 0x70003FFC#32) = some Config.eeRegions[3] ∧
    (Config.eeRegions[3]).writable = true ∧
    pageEntry e.cpu (translate e.cpu 0xBFFFFFFC#32) = some Config.eeRegions[2] ∧
    (Config.eeRegions[2]).writable = false ∧
    pageEntry s.cpu (translate s.cpu 0x00800000#32) = none := by decide +kernel

/-- Reads of every size that give a value, and reads of every size that fault, on both CPUs: from RAM, and from an
address that nothing serves. -/
theorem witness_LoadsWriteWhatTheyRead :
    let s := eeData [1, 2, 3, 4, 5, 6, 7, 8]
    let i := iopData [1, 2, 3, 4, 5, 6, 7, 8]
    let far := started .ee [(4, 0x14000000)]
    let farIop := started .iop [(4, 0x14000000)]
    ([1, 2, 4, 8, 16].Forall fun n => reads (memRead s (s.effAddr 4 0) n) (s.mem.readLE 0x100 n) = true) ∧
    ([1, 2, 4].Forall fun n => reads (memRead i (i.effAddr 4 0) n) (i.mem.readLE 0x1C000100 n) = true) ∧
    ([1, 2, 4, 8, 16].Forall fun n => readFaults (memRead far (far.effAddr 4 0) n) (.unhandledMmio 0x14000000#32 n false) = true) ∧
    ([1, 2, 4].Forall fun n => readFaults (memRead farIop (farIop.effAddr 4 0) n) (.unhandledMmio 0x14000000#32 n false) = true) := by
  decide +kernel

/-- The last byte, halfword, word, doubleword and quadword of the EE's RAM, and the last word of the IOP's mirrors. -/
theorem witness_LoadsFromMemoryComplete :
    let s := started .ee [(4, 0x81FFFFF0)]
    let i := started .iop [(4, 0x807FFFF0)]
    ([15#16, 14#16, 12#16, 8#16, 0#16].Forall fun off =>
      pageEntry s.cpu (translate s.cpu (s.effAddr 4 off)) = some Config.eeRegions[0]) ∧
    (s.effAddr 4 14).toNat % 2 = 0 ∧ (s.effAddr 4 12).toNat % 4 = 0 ∧ (s.effAddr 4 8).toNat % 8 = 0 ∧ s.cpu = .ee ∧
    pageEntry s.cpu (translate s.cpu (s.quadAddr 4 15)) = some Config.eeRegions[0] ∧
    ([15#16, 14#16, 12#16].Forall fun off =>
      pageEntry i.cpu (translate i.cpu (i.effAddr 4 off)) = some Config.iopRegions[0]) := by decide +kernel

/-- As for the loads, with stores not discarded and the page writable. -/
theorem witness_StoresToMemoryComplete :
    let s := started .ee [(4, 0x81FFFFF0), (5, 0xFFFFFFFFFFFFFFFF)]
    let i := started .iop [(4, 0x807FFFF0), (5, 0xFFFFFFFF)]
    s.storesDiscarded = false ∧ i.storesDiscarded = false ∧ (Config.eeRegions[0]).writable = true ∧
    (Config.iopRegions[0]).writable = true ∧ s.cpu = .ee ∧ s.mem.wf ∧
    ([15#16, 14#16, 12#16, 8#16, 0#16].Forall fun off =>
      pageEntry s.cpu (translate s.cpu (s.effAddr 4 off)) = some Config.eeRegions[0]) ∧
    (s.effAddr 4 14).toNat % 2 = 0 ∧ (s.effAddr 4 12).toNat % 4 = 0 ∧ (s.effAddr 4 8).toNat % 8 = 0 ∧
    pageEntry s.cpu (translate s.cpu (s.quadAddr 4 15)) = some Config.eeRegions[0] ∧
    ([15#16, 14#16, 12#16].Forall fun off =>
      pageEntry i.cpu (translate i.cpu (i.effAddr 4 off)) = some Config.iopRegions[0]) := by decide +kernel

theorem witness_LoadAfterStoreGivesTheValue :
    let s := started .ee []
    let v := 0x0F0E0D0C0B0A09080706050403020100#128
    16 ≤ 16 ∧ s.storesDiscarded = false ∧
    pageEntry s.cpu (translate s.cpu 0x70003FF0#32) = some Config.eeRegions[3] ∧
    (Config.eeRegions[3]).writable = true ∧
    memWrite s 0x70003FF0#32 16 v = .next (after (memWrite s 0x70003FF0#32 16 v)) := by
  refine ⟨by decide +kernel, by decide +kernel, by decide +kernel, by decide +kernel, next_after (by decide +kernel)⟩

/-- The last word of the window and of the last mirror, and the first word of both. -/
theorem witness_IopRamIsSharedWithTheEe :
    let s := started .ee []
    s.turn = .cpu .ee ∧
    (0x1C000000 ≤ (translate .ee 0xBC1FFFFC#32).toNat ∧ (translate .ee 0xBC1FFFFC#32).toNat < 0x1C200000 ∧
      (translate .iop 0x807FFFFC#32).toNat + 0x1C000000 = (translate .ee 0xBC1FFFFC#32).toNat + 3 * 0x200000 ∧
      memWrite s 0xBC1FFFFC#32 4 0x12345678#128 = .next (after (memWrite s 0xBC1FFFFC#32 4 0x12345678#128))) ∧
    (0x1C000000 ≤ (translate .ee 0x1C000000#32).toNat ∧ (translate .ee 0x1C000000#32).toNat < 0x1C200000 ∧
      (translate .iop 0#32).toNat + 0x1C000000 = (translate .ee 0x1C000000#32).toNat + 0 * 0x200000 ∧
      memWrite s 0x1C000000#32 1 0x12#128 = .next (after (memWrite s 0x1C000000#32 1 0x12#128))) := by
  refine ⟨by decide +kernel, ⟨by decide +kernel, by decide +kernel, by decide +kernel, next_after (by decide +kernel)⟩,
    ⟨by decide +kernel, by decide +kernel, by decide +kernel, next_after (by decide +kernel)⟩⟩

/-- Both ends of both windows, and the addresses just outside them. -/
theorem witness_TranslationMasksTheAddress :
    ([0x70000000#32, 0x70003FFF#32].Forall fun va => 0x70000000 ≤ va.toNat ∧ va.toNat < 0x70004000) ∧
    ([0x30000000#32, 0x3FFFFFFF#32].Forall fun va => 0x30000000 ≤ va.toNat ∧ va.toNat < 0x40000000) ∧
    ([0x2FFFFFFF#32, 0x40000000#32, 0x6FFFFFFF#32, 0x70004000#32, 0xFFFFFFFF#32].Forall fun va =>
      ¬ (0x70000000 ≤ va.toNat ∧ va.toNat < 0x70004000) ∧ ¬ (0x30000000 ≤ va.toNat ∧ va.toNat < 0x40000000)) := by
  decide +kernel

/-! ### System -/

/-- The registers just beside the modelled ones. -/
theorem witness_Mfc0ReadsTheRegister :
    (([0, 8, 10, 16, 29, 31] : List Reg).Forall fun rd => rd.val ∉ [9, 11, 12, 13, 14, 15, 30]) ∧
    (([0, 9, 11, 16, 31] : List Reg).Forall fun rd => rd.val ∉ [12, 13, 14, 15]) ∧
    (started .ee []).cpu = .ee ∧ (started .iop []).cpu = .iop := by decide +kernel

/-- Cause, PRId and an unmodelled register on the EE; PRId and Count on the IOP. -/
theorem witness_Cop0WritesComplete :
    (([0, 13, 15, 31] : List Reg).Forall fun rd => rd.val ∉ [9, 11, 12, 14, 30]) ∧
    (([0, 9, 11, 15, 31] : List Reg).Forall fun rd => rd.val ∉ [12, 13, 14]) ∧
    (started .ee []).cpu = .ee ∧ (started .iop []).cpu = .iop := by decide +kernel

/-- An EE state with Status, and its INTC and DMAC lines and IP7 as given. -/
def eePending (status : Word) (intc dmac ip7 : Bool) : State :=
  let s := runningIn .ee status 0#32 []
  { s with
    eeIntc := { stat := if intc then 4 else 0, mask := 4 }
    eeDmac := { s.eeDmac with dStat := if dmac then 0x02000200#32 else 0x200#32 }
    ee := { s.ee with ctl := { s.ee.ctl with cause := if ip7 then 0x8000#32 else 0#32 } } }

/-- An IOP state with Status, and its two software bits and INTC line as given. -/
def iopPending (status cause : Word) (intc : Bool) : State :=
  let s := runningIn .iop status 0#32 []
  { s with
    iopIntc := { stat := if intc then 8 else 0, mask := 8, ctrl := 0 }
    iop := { s.iop with ctl := { s.iop.ctl with cause := cause } } }

/-- `CoreInv` as a decidable conjunction. -/
abbrev CoreOk (s : State) : Prop :=
  s.ee.gpr[0] = 0 ∧ s.iop.gpr[0] = 0 ∧ s.ee.ctl.cause &&& ~~~0x8000807C#32 = 0 ∧ s.iop.ctl.cause &&& ~~~0x8000037C#32 = 0

theorem coreInv_of {s : State} (h : CoreOk s) : s.CoreInv := ⟨h.1, h.2.1, h.2.2.1, h.2.2.2⟩

/-- States in which each source alone is taken. -/
def takenStates : List State :=
  [eePending 0x00010401#32 true false false, eePending 0x00010801#32 false true false,
    eePending 0x00018001#32 false false true, iopPending 0x00000101#32 0x300#32 false,
    iopPending 0x00000201#32 0x300#32 false, iopPending 0x00000401#32 0#32 true]

/-- States in which one condition is missing. -/
def notTakenStates : List State :=
  [eePending 0x00010400#32 true false false, eePending 0x00010403#32 true false false,
    eePending 0x00000401#32 true false false, eePending 0x00010001#32 true true true,
    eePending 0x00010C01#32 false false true, iopPending 0x00000700#32 0x300#32 true,
    iopPending 0x00000401#32 0x300#32 false]

theorem witness_InterruptCheckTakesPendingSources :
    (∀ s ∈ takenStates ++ notTakenStates, s.CoreInv) ∧
    (∀ s ∈ takenStates, (interruptCheck s).pc = if s.cpu = .ee then 0x80000200#32 else 0x80000080#32) ∧
    (∀ s ∈ notTakenStates, (interruptCheck s).pc = 0x80001000#32) :=
  ⟨fun s hs => coreInv_of ((show ∀ s ∈ takenStates ++ notTakenStates, CoreOk s by decide +kernel) s hs),
    by decide +kernel, by decide +kernel⟩

theorem witness_EntryMasksInterrupts :
    (eePending 0x0001841D#32 true true true).cpu = .ee ∧ (iopPending 0x00000701#32 0x300#32 true).cpu = .iop ∧
    (interruptCheck (eePending 0x0001841D#32 true true true)).pc = 0x80000200#32 := by decide +kernel

/-- SYSCALL at A, then a handler's ERET at the vector. -/
theorem witness_SyscallThenEretComesBack :
    let s := withWord (runningIn .ee 0x00010401#32 0x0000000C#32 []) 0x180 0x42000018#32
    let t := after (cpuStep s)
    s.turn = .cpu .ee ∧ s.ctl.inDelaySlot = false ∧ s.ctl.status.getLsbD 2 = false ∧
    fetch s = .ok 0x0000000C#32 ∧ decode .ee 0x0000000C#32 = .instr (.syscall 0) ∧
    cpuStep s = .next t ∧ t.turn = .cpu .ee ∧ t.ctl.inDelaySlot = false ∧
    fetch t = .ok 0x42000018#32 ∧ decode .ee 0x42000018#32 = .instr .eret ∧
    completes (cpuStep t) = true := by
  refine ⟨by decide +kernel, by decide +kernel, by decide +kernel, fetch_of_fetched (by decide +kernel),
    by decide +kernel, next_after (by decide +kernel), by decide +kernel,
    by decide +kernel, fetch_of_fetched (by decide +kernel), by decide +kernel, by decide +kernel⟩

/-! ### Frames and invariants -/

/-- An instruction of each class of the statement completes; each store from the last bytes of a page, with a byte on
either side of them, and each to an address of an external range, which no page serves. -/
theorem witness_FrameOfEveryInstruction :
    (completes (exec (.addu 3 1 2) (started .ee [(1, 5)])) = true ∧ writesHiLo (.addu 3 1 2) = false ∧
      isStore (.addu 3 1 2) = false ∧ accessesMemory (.addu 3 1 2) = false ∧ mayChangeStatus (.addu 3 1 2) = false ∧
      (1 : Reg) ∉ destinationsOf (.addu 3 1 2)) ∧
    (completes (exec (.lw 3 4 0) (eeData [1])) = true ∧ isStore (.lw 3 4 0) = false ∧ accessesMemory (.lw 3 4 0) = true) ∧
    (completes (exec (.sw 3 4 0) (iopData [1])) = true ∧ isStore (.sw 3 4 0) = true) ∧
    (completes (exec (.mult 3 1 2) (started .ee [(1, 5)])) = true ∧ writesHiLo (.mult 3 1 2) = true) ∧
    (completes (exec (.syscall 0) (started .iop [])) = true ∧ mayChangeStatus (.syscall 0) = true) ∧
    ([(Instr.sb 3 4 0xFFFF, 1), (.sh 3 4 0xFFFE, 2), (.sw 3 4 0xFFFC, 4), (.sd 3 4 0xFFF8, 8), (.sq 3 4 0xFFF0, 16)].Forall
      fun (i, n) =>
        let page := started .ee [(4, 0x02000000)]
        let external := started .ee [(4, 0x12002000)]
        let va := BitVec.ofNat 32 (0x02000000 - n)
        let far := BitVec.ofNat 32 (0x12002000 - n)
        completes (exec i page) = true ∧ storeSpan i page = some (va, n) ∧
        (pageEntry .ee (translate .ee va)).any (fun r => decide (regionKey r (translate .ee va) = 0x02000000 - n)) = true ∧
        completes (exec i external) = true ∧ storeSpan i external = some (far, n) ∧
        pageEntry .ee (translate .ee far) = none) := by decide +kernel

/-- A state in which every agent has work: a store at each pc, EE channel 9 and IOP channel 4 active, EE timer 0 and
IOP timers 0 and 5 counting, an event due and one to come. -/
def busy (turn : Turn) : State :=
  let m := ((Memory.writeLE [] 0x1000 4 0xAC410000#128).writeLE 0x1C001000 4 0xAC410000#128).writeLE 0x100000 4 0x55#128
  { State.reset with
    turn := turn
    mem := m
    ee := { (started .ee [(1, 0xAB), (2, 0x70000010)]).ee with
      ctl := { (started .ee []).ee.ctl with cause := 0x8000007C#32, status := 0x00008001#32 } }
    iop := { (started .iop [(1, 0xCD), (2, 0x00600010)]).iop with
      ctl := { (started .iop []).iop.ctl with cause := 0x8000037C#32 } }
    eeDmac := { EeDmac.reset with
      ch := EeDmac.reset.ch.set 9 (toSpr 0x100#32 0x00100000#32 2 0x3FF0#32 .active true)
      dStat := 0x02000000#32 }
    iopDmac := { IopDmac.reset with
      ch := IopDmac.reset.ch.set 4 (fromIop 0x01000001#32 0x1000#32 1#32 .active)
      dicr := 0x00100000#32 }
    eeTimers := (Vector.replicate 4 EeTimer.reset).set 0 { EeTimer.reset with count := 0xFFFF, mode := 0x280#32 }
    iopTimers := ((Vector.replicate 6 IopTimer.reset).set 0 { count := 0xFFFF#32, mode := 0x30#32, target := 0 }).set 5
      { count := 0xFFFF#32, mode := 0x30#32, target := 0x10000#32 }
    sched := { now := 100, queue := [⟨64#64, none, .hblank⟩, ⟨200#64, some 7, .vblankEnd⟩] }
    extIrq := [[.ee 14, .iop 25]]
    elapsed := 64 }

theorem busy_memInv (turn : Turn) : (busy turn).MemInv :=
  have h : (busy (.cpu .ee)).mem.wf ∧ ∀ c ∈ (busy (.cpu .ee)).mem, c.1 < 0x02000000 ∨
      (0x1C000000 ≤ c.1 ∧ c.1 < 0x1C200000) := by decide +kernel
  ⟨h.1, fun c hc => (h.2 c hc).elim .inl fun x => .inr (.inl x)⟩

theorem busy_coreInv (turn : Turn) : (busy turn).CoreInv :=
  have h : CoreOk (busy (.cpu .ee)) := by decide +kernel
  ⟨h.1, h.2.1, h.2.2.1, h.2.2.2⟩

theorem busy_driverInv (turn : Turn) : (busy turn).DriverInv := by
  cases turn with
  | cpu c => cases c <;> exact ⟨by decide +kernel, by decide +kernel, by decide +kernel, by decide +kernel⟩
  | _ => exact ⟨by decide +kernel, by decide +kernel, by decide +kernel, by decide +kernel⟩

theorem busy_deviceInv (turn : Turn) : (busy turn).DeviceInv := by
  have ee : ∀ ch, let c := (busy (.cpu .ee)).eeChannel ch
      c.chcr &&& ~~~0xFFFF01FD#32 = 0 ∧ c.madr &&& ~~~0xFFFFFFF0#32 = 0 ∧ c.tadr &&& ~~~0xFFFFFFF0#32 = 0 ∧
      c.asr0 &&& ~~~0xFFFFFFF0#32 = 0 ∧ c.asr1 &&& ~~~0xFFFFFFF0#32 = 0 ∧ c.sadr &&& ~~~0x00003FF0#32 = 0 ∧
      (c.phase = .idle ↔ c.chcr.getLsbD 8 = false) := by decide +kernel
  have iop : ∀ ch, ((busy (.cpu .ee)).iopChannel ch).phase =
      if ((busy (.cpu .ee)).iopChannel ch).chcr.getLsbD 24 then .active else .idle := by decide +kernel
  have regs : (busy (.cpu .ee)).eeDmac.dStat &&& ~~~0x63FFE3FF#32 = 0 ∧
      (busy (.cpu .ee)).iopDmac.dicr &&& ~~~0x7FFFFFFF#32 = 0 ∧
      (busy (.cpu .ee)).iopDmac.dicr2 &&& ~~~0x3FFFFFFF#32 = 0 ∧
      (busy (.cpu .ee)).iopIntc.stat &&& ~~~0x03FFFFFF#32 = 0 := by decide +kernel
  have eeT : ∀ n, ((busy (.cpu .ee)).eeTimer n).mode &&& ~~~0x00000FFB#32 = 0 := by decide +kernel
  have iopT : ∀ n : Fin 6, ((busy (.cpu .ee)).iopTimer n).mode &&& ~~~0x0000FFFE#32 = 0 ∧
      (n.val ≤ 2 → ((busy (.cpu .ee)).iopTimer n).count.toNat < 0x10000 ∧
        ((busy (.cpu .ee)).iopTimer n).target.toNat < 0x10000) := by decide +kernel
  exact ⟨fun ch => ⟨(ee ch).1, (ee ch).2.1, (ee ch).2.2.1, (ee ch).2.2.2.1, (ee ch).2.2.2.2.1, (ee ch).2.2.2.2.2.1,
    (ee ch).2.2.2.2.2.2⟩, iop, regs.1, regs.2.1, regs.2.2.1, regs.2.2.2, eeT, iopT⟩

/-- Every agent's step, from a state in which the four invariants hold, is a next state. -/
theorem busy_steps (turn : Turn) : completes (step (busy turn)) = true := by
  cases turn with
  | cpu c => cases c <;> decide +kernel
  | _ => decide +kernel

theorem witness_StepKeepsMemoryCanonical (turn : Turn) :
    (busy turn).MemInv ∧ (busy turn).DeviceInv ∧ step (busy turn) = .next (after (step (busy turn))) :=
  ⟨busy_memInv turn, busy_deviceInv turn, next_after (busy_steps turn)⟩

theorem witness_StepKeepsDeviceRegisters (turn : Turn) :
    (busy turn).DeviceInv ∧ step (busy turn) = .next (after (step (busy turn))) :=
  ⟨busy_deviceInv turn, next_after (busy_steps turn)⟩

theorem witness_StepKeepsTheCores (turn : Turn) :
    (busy turn).CoreInv ∧ step (busy turn) = .next (after (step (busy turn))) :=
  ⟨busy_coreInv turn, next_after (busy_steps turn)⟩

theorem witness_StepKeepsTheDriverAndQueue (turn : Turn) :
    (busy turn).DriverInv ∧ step (busy turn) = .next (after (step (busy turn))) :=
  ⟨busy_driverInv turn, next_after (busy_steps turn)⟩

theorem witness_ACpuStepLeavesTheOtherSideAlone (c : Cpu) :
    (busy (.cpu c)).turn = .cpu c ∧ step (busy (.cpu c)) = .next (after (step (busy (.cpu c)))) :=
  ⟨rfl, next_after (busy_steps (.cpu c))⟩

/-- The empty image, a short one, and one that fills its buffer. -/
theorem witness_ResetGivesEveryElementItsValue :
    ([] : List Byte).length ≤ 0x400000 ∧ ([1, 2, 3] : List Byte).length ≤ 0x400000 ∧
    (List.replicate 0x400000 (7 : Byte)).length ≤ 0x400000 :=
  ⟨by decide, by decide, by rw [List.length_replicate]⟩

/-! ### Devices -/

/-- Both ends of the first and the last external range of each CPU; mode values with and without a gate bit. -/
theorem witness_InterruptRegistersAndExternalRanges :
    ((0x4#128).setWidth 32).getLsbD 2 = true ∧ ((0xFFFFFFFB#128).setWidth 32).getLsbD 2 = false ∧
    ((0x1#128).setWidth 32).getLsbD 0 = true ∧ ((0xFFFFFFFE#128).setWidth 32).getLsbD 0 = false ∧
    ([0x10002000#32, 0x10007FFF#32, 0x12000000#32, 0x12001FFF#32].Forall fun pa =>
      (Config.externalMmio .ee).any (fun r => r.holds pa.toNat) = true) ∧
    ([0x1D000000#32, 0x1D00007F#32, 0x1FFE0000#32, 0x1FFFFFFF#32].Forall fun pa =>
      (Config.externalMmio .iop).any (fun r => r.holds pa.toNat) = true) := by decide +kernel

/-- Registers at both ends of the lists; addresses and sizes of an in-block range that no register takes; external
ranges; and addresses that no range holds. -/
theorem witness_AccessesThatNothingServesFault :
    ([0x10000000#32, 0x1000F010#32].Forall fun pa => (Config.mmio .ee).any (fun r => r.holds pa.toNat) = true) ∧
    ([0x1F801070#32, 0x1F801574#32].Forall fun pa => (Config.mmio .iop).any (fun r => r.holds pa.toNat) = true) ∧
    ([0x10000040#32, 0x10001030#32, 0x1000E051#32, 0x1000F59F#32].Forall fun pa =>
      (Config.mmio .ee).any (fun r => r.holds pa.toNat) = true ∧ eeRegAt pa.toNat = none) ∧
    ([0x1F80107C#32, 0x1F8010F8#32, 0x1F80157F#32].Forall fun pa =>
      (Config.mmio .iop).any (fun r => r.holds pa.toNat) = true ∧ iopRegAt pa.toNat = none) ∧
    ((Config.mmio .ee).any (fun r => r.holds 0x10002000) = false ∧
      (Config.externalMmio .ee).any (fun r => r.holds 0x10002000) = true) ∧
    ((Config.mmio .ee).any (fun r => r.holds 0x14000000) = false ∧
      (Config.externalMmio .ee).any (fun r => r.holds 0x14000000) = false) ∧
    ((Config.mmio .iop).any (fun r => r.holds 0x1D000080) = false ∧
      (Config.externalMmio .iop).any (fun r => r.holds 0x1D000080) = false) := by decide +kernel

/-- The written CHCR of each case, on a stopped and on a running channel, and IOP starts with a block size of 0 and
of 4. -/
theorem witness_DmaStartsFollowTheirRules :
    let v (w : Quad) : Word := w.setWidth 32 &&& 0xFFFF01FD#32
    let running := eeChannelIs 9 (toSpr 0x100#32 0#32 1 0#32 .active true)
    (v 0x4#128).getLsbD 8 = false ∧ (v 0x100#128).getLsbD 8 = true ∧ (State.reset.eeChannel 9).chcr.getLsbD 8 = false ∧
    (running.eeChannel 9).chcr.getLsbD 8 = true ∧
    (v 0x100#128 >>> 2).toNat % 4 = 0 ∧ (v 0x104#128 >>> 2).toNat % 4 = 1 ∧ (v 0x108#128 >>> 2).toNat % 4 = 2 ∧
    (v 0x10C#128 >>> 2).toNat % 4 = 3 ∧ (v 0x105#128).getLsbD 0 = true ∧ (v 0x104#128).getLsbD 0 = false ∧
    (0x01000000#32).getLsbD 24 = true ∧ (0x01000000#32).extractLsb' 9 2 = 0 ∧ (0x01000200#32).extractLsb' 9 2 = 1 ∧
    (0x01000400#32).extractLsb' 9 2 = 2 ∧ (0x01000600#32).extractLsb' 9 2 = 3 ∧
    (State.reset.iopChannel 12).chcr.getLsbD 24 = false ∧
    ((iopChannelIs 12 (fromIop 0x01000000#32 0#32 1#32 .active) 0#32).iopChannel 12).chcr.getLsbD 24 = true := by decide +kernel

/-- EE channel `ch`, alone, runs an Active transfer of `n` quadwords. -/
abbrev EeRunning (s : State) (ch : Fin 10) (n : Nat) : Prop :=
  (s.eeChannel ch).chcr.getLsbD 8 = true ∧ (s.eeChannel ch).phase = .active ∧ (s.eeChannel ch).qwc.toNat = n ∧
  ∀ ch', ch' ≠ ch → (s.eeChannel ch').chcr.getLsbD 8 = false

/-- The key of quadword `k` of a channel's transfer. -/
def eeQuadKey (s : State) (ch : Fin 10) (k : Nat) : Option Nat :=
  eeDmaKey (!eeFromMemory ch (s.eeChannel ch).chcr) ((s.eeChannel ch).madr + BitVec.ofNat 32 (16 * k))

/-- The hypotheses of the last part of `EeDmaTransferCompletesInTickN`. -/
abbrev EeTransferReady (s : State) (ch : Fin 10) (n : Nat) (keys : Nat → Nat) : Prop :=
  EeRunning s ch n ∧ (s.eeChannel ch).chainEnd = true ∧ ∀ k, k < n → eeQuadKey s ch k = some (keys k)

/-- No byte that quadword `k` of a transfer stores is stored again by a later one. -/
abbrev NotOverwritten (n : Nat) (keys : Nat → Nat) : Prop :=
  ∀ k, k < n → ∀ i, i < 16 → ∀ k', k' < n → k < k' → keys k + i < keys k' ∨ keys k' + 16 ≤ keys k + i

/-- Channel 9 (the example of R498), up to the last quadword of the scratchpad. -/
theorem witness_EeDmaTransferCompletesInTickN :
    let keys (k : Nat) := 0x00100000 + 16 * k
    EeTransferReady (eeChannelIs 9 (toSpr 0x100#32 0x00100000#32 3 0x3FD0#32 .active true)) 9 3 keys ∧
    (∀ k, k < 3 → keys k + 16 ≤ 0x70000000) ∧ (0x3FD0#32 &&& 0x00003FF0#32).toNat + 16 * 3 ≤ 0x4000 := by
  decide +kernel

/-- Channel 8 out of the scratchpad, around its end, into the last quadwords of RAM. -/
theorem witness_EeDmaTransferCompletesInTickN_fromSpr :
    let keys (k : Nat) := 0x01FFFFE0 + 16 * k
    EeTransferReady (eeChannelIs 8 (toSpr 0x100#32 0x01FFFFE0#32 2 0x3FF0#32 .active true)) 8 2 keys ∧
    (∀ k, k < 2 → keys k + 16 ≤ 0x70000000) ∧ NotOverwritten 2 keys := by decide +kernel

/-- Channel 4 from the scratchpad, and channel 0 (DIR = 1) from the ROM, to their ports. -/
theorem witness_EeDmaTransferCompletesInTickN_toPort :
    eeFromMemory 4 0x100#32 = true ∧ eeFromMemory 0 0x101#32 = true ∧
    EeTransferReady (eeChannelIs 4 (toSpr 0x100#32 0x80000000#32 1 0#32 .active true)) 4 1 (fun _ => 0x70000000) ∧
    EeTransferReady (eeChannelIs 0 (toSpr 0x101#32 0x1FC00000#32 1 0#32 .active true)) 0 1 (fun _ => 0x1FC00000) := by
  decide +kernel

/-- Channel 0 (DIR = 0) from its port into the last quadwords of the IOP RAM window. -/
theorem witness_EeDmaTransferCompletesInTickN_fromPort :
    let keys (k : Nat) := 0x1C1FFFE0 + 16 * k
    EeTransferReady (eeChannelIs 0 (toSpr 0x100#32 0x1C1FFFE0#32 2 0#32 .active true)) 0 2 keys ∧
    eeFromMemory 0 0x100#32 = false ∧ NotOverwritten 2 keys := by decide +kernel

/-- A transfer of no quadword. -/
theorem witness_EeDmaTransferCompletesInTickN_ofNone :
    EeTransferReady (eeChannelIs 4 (toSpr 0x100#32 0x10000000#32 0 0#32 .active true)) 4 0 (fun _ => 0) := by
  decide +kernel

/-- A transfer off the end of RAM after its second quadword, one into the ROM at its first, and, for the memory path,
an address with bit 31, one with no page and one with a page that takes no write. -/
theorem witness_EeDmaTransferCompletesInTickN_stops :
    (let s := eeChannelIs 4 (toSpr 0x100#32 0x01FFFFE0#32 3 0#32 .active true)
     EeRunning s 4 3 ∧ (∀ k, k < 2 → (eeQuadKey s 4 k).isSome = true) ∧ eeQuadKey s 4 2 = none) ∧
    (let s := eeChannelIs 8 (toSpr 0x100#32 0x1FC00000#32 1 0#32 .active true)
     EeRunning s 8 1 ∧ eeQuadKey s 8 0 = none) ∧
    (0x80003FF0#32).getLsbD 31 = true ∧ (0x10000000#32).getLsbD 31 = false ∧ pageEntry .ee 0x10000000#32 = none ∧
    (pageEntry .ee 0x1FC00000#32).any (fun r => !r.writable) = true := by decide +kernel

/-- Channel 4 at a tag with this ID, its address-stack pointer at this value. -/
def atTag (id asp : Nat) : State :=
  withWord (eeChannelIs 4 { toSpr (BitVec.ofNat 32 (0x1C4 + 16 * asp)) 0#32 0 0#32 .tagFetch false with
    tadr := 0x00200000#32 }) 0x00200000 (BitVec.ofNat 32 (0x80000002 + id * 0x10000000))

/-- A tag address with no page; and a chain that goes on, with no quadword left and with one. -/
theorem witness_EeTagFetchAppliesTheTag_between :
    (let c := (eeChannelIs 4 { toSpr 0x104#32 0#32 0 0#32 .tagFetch false with tadr := 0x10000000#32 }).eeChannel 4
     c.chcr.getLsbD 8 = true ∧ c.phase = .tagFetch ∧ c.tadr.getLsbD 31 = false ∧ pageEntry .ee c.tadr = none) ∧
    ([0, 1].Forall fun q =>
      let s := eeChannelIs 4 (toSpr 0x104#32 0#32 q 0#32 .active false)
      (s.eeChannel 4).chcr.getLsbD 8 = true ∧ (s.eeChannel 4).phase = .active ∧ (s.eeChannel 4).chainEnd = false ∧
      (s.eeChannel 4).qwc = q ∧ completes (eeChannelTick 4 s) = true) := by decide +kernel

/-- Every tag ID with every address-stack pointer of its clause. -/
theorem witness_EeTagFetchAppliesTheTag :
    ∀ id < 8, ∀ asp < 3,
      ((atTag id asp).eeChannel 4).chcr.getLsbD 8 = true ∧ ((atTag id asp).eeChannel 4).phase = .tagFetch ∧
      ((atTag id asp).eeChannel 4).chainEnd = false ∧
      eeDmaKey false ((atTag id asp).eeChannel 4).tadr = some 0x00200000 ∧
      (((atTag id asp).mem.readLE 0x00200000 16).extractLsb' 28 3).toNat = id ∧
      (((atTag id asp).eeChannel 4).chcr >>> 4).toNat % 4 = asp := by decide +kernel

/-- IOP channel `ch`, alone, runs a transfer of `n` words. -/
abbrev IopRunning (s : State) (ch : Fin 13) (n : Nat) : Prop :=
  (s.iopChannel ch).chcr.getLsbD 24 = true ∧ (s.iopChannel ch).phase = .active ∧
  (s.iopChannel ch).remaining.toNat = n ∧ ∀ ch', ch' ≠ ch → (s.iopChannel ch').chcr.getLsbD 24 = false

/-- The key of byte `j` of word `k` of a channel's transfer. -/
def iopWordKey (s : State) (ch : Fin 13) (k j : Nat) : Option Nat :=
  let c := s.iopChannel ch
  iopDmaByteKey (!c.chcr.getLsbD 0) ((if c.chcr.getLsbD 1 then c.madr - BitVec.ofNat 32 (4 * k)
    else c.madr + BitVec.ofNat 32 (4 * k)) + BitVec.ofNat 32 j)

/-- The hypotheses of the last part of `IopDmaTransferCompletesInTickN`. -/
abbrev IopTransferReady (s : State) (ch : Fin 13) (n : Nat) (keys : Nat → Nat → Nat) : Prop :=
  IopRunning s ch n ∧ ∀ k, k < n → ∀ j, j < 4 → iopWordKey s ch k j = some (keys k j)

/-- No byte that word `k` of a transfer stores is stored again by a later one. -/
abbrev IopNotOverwritten (n : Nat) (keys : Nat → Nat → Nat) : Prop :=
  ∀ k, k < n → ∀ j, j < 4 → ∀ k', k' < n → k < k' → ∀ j', j' < 4 → keys k' j' ≠ keys k j

/-- Upward from memory up to the last word (DIR = 1), on the first channel, from an aligned MADR. -/
theorem witness_IopDmaTransferCompletesInTickN :
    IopTransferReady (iopChannelIs 0 (fromIop 0x11000001#32 0x007FFFF8#32 2#32 .active) 0x00010000#32) 0 2
      (fun k j => 0x1C1FFFF8 + 4 * k + j) ∧
    (0x007FFFF8#32).toNat % 4 = 0 ∧ (0x11000001#32).getLsbD 0 = true := by decide +kernel

/-- Downward into memory (DIR = 0), on the last channel, from an aligned MADR, to address 0. -/
theorem witness_IopDmaTransferCompletesInTickN_fromPort :
    let keys (k j : Nat) := 0x1C000004 - 4 * k + j
    IopTransferReady (iopChannelIs 12 (fromIop 0x01000002#32 0x00000004#32 2#32 .active) 0x00008000#32) 12 2 keys ∧
    (0x00000004#32).toNat % 4 = 0 ∧ (0x01000002#32).getLsbD 0 = false ∧
    IopNotOverwritten 2 keys := by
  intro keys
  exact ⟨by decide +kernel, by decide, by decide, by decide +kernel⟩

/-- One word from a MADR that is not aligned, around the end of a mirror; and no word. -/
theorem witness_IopDmaTransferCompletesInTickN_corners :
    IopTransferReady (iopChannelIs 4 (fromIop 0x01000001#32 0x001FFFFE#32 1#32 .active) 0#32) 4 1
      (fun _ j => if j < 2 then 0x1C1FFFFE + j else 0x1C000000 + (j - 2)) ∧
    IopTransferReady (iopChannelIs 4 (fromIop 0x01000201#32 0x10000000#32 0#32 .active) 0#32) 4 0 (fun _ _ => 0) := by
  decide +kernel

/-- A transfer off the end of the RAM mirrors after its first word, one into the ROM at its first, and a page that
takes no write. -/
theorem witness_IopDmaTransferCompletesInTickN_stops :
    (let s := iopChannelIs 4 (fromIop 0x01000001#32 0x007FFFFC#32 2#32 .active) 0#32
     IopRunning s 4 2 ∧ (∀ k, k < 1 → ∀ j, j < 4 → (iopWordKey s 4 k j).isSome = true) ∧ iopWordKey s 4 1 0 = none) ∧
    (let s := iopChannelIs 4 (fromIop 0x01000000#32 0x1FC00000#32 1#32 .active) 0#32
     IopRunning s 4 1 ∧ iopWordKey s 4 0 0 = none) ∧
    pageEntry .iop 0x00800000#32 = none ∧ (pageEntry .iop 0x1FC00000#32).any (fun r => !r.writable) = true := by
  decide +kernel

theorem witness_TimersAndCountAdvance :
    (started .ee []).cpu = .ee ∧ (started .iop []).cpu = .iop := by decide +kernel

/-- A state in the events turn with `now` = 100 and this queue. -/
def eventsState (queue : List Event) : State := { busy .events with sched := { now := 100, queue := queue } }

/-- A sorted queue; a due head of each kind, at its deadline and before; an empty queue and one with nothing due. -/
theorem witness_SchedulerOrdersAndFiresEvents :
    (eventsState [⟨50, none, .hblank⟩, ⟨50, some 7, .vblankEnd⟩, ⟨101, none, .vblankStart⟩]).sched.queue.Pairwise
      (fun e f => e.deadline.toNat ≤ f.deadline.toNat) ∧
    ([EventKind.vblankStart, .vblankEnd, .hblank].Forall fun kind => [100#64, 0#64].Forall fun d =>
      let s := eventsState [⟨d, none, kind⟩, ⟨200, none, .hblank⟩]
      s.turn = .events ∧ s.sched.queue.head? = some ⟨d, none, kind⟩ ∧ d.toNat ≤ s.sched.now.toNat) ∧
    ([[], [(⟨101, none, .hblank⟩ : Event)]].Forall fun q => (eventsState q).turn = .events ∧
      ∀ e ∈ (eventsState q).sched.queue.head?, (eventsState q).sched.now.toNat < e.deadline.toNat) := by decide +kernel

/-- Each phase at its start; the short ones run to their end, the long ones for their first step, which is less than
their share. -/
theorem witness_QuantumGivesEveryAgentItsShare :
    ([Turn.cpu .ee, .eeDmac, .eeTimers, .cpu .iop, .iopDmac, .iopTimers, .scheduler].Forall fun a =>
      (busy a).turn = a ∧ (busy a).ticks = 0 ∧ completes (runSteps 1 (busy a)) = true) ∧
    ([Turn.cpu .iop, .iopDmac, .iopTimers].Forall fun a => completes (runSteps 4 (busy a)) = true) ∧
    ([Turn.eeDmac, .eeTimers].Forall fun a => completes (runSteps 16 (busy a)) = true) ∧
    completes (runSteps 32 (busy (.cpu .ee))) = true ∧
    (State.reset.eeChannel 0).chcr.getLsbD 8 = false ∧ (State.reset.iopChannel 0).chcr.getLsbD 24 = false := by decide +kernel

end Sys2Proof.Tests
end

section
/-! SUPPORT. Translation of addresses, and its statement (20_memory.md R101, R102). -/

namespace Sys2Proof.Machine

/-- The EE translation with the bounds of its two windows written out (R101). -/
theorem eeTranslate_eq (va : Word) :
    eeTranslate va =
      if 0x70000000 ≤ va.toNat ∧ va.toNat < 0x70004000 then va
      else if 0x30000000 ≤ va.toNat ∧ va.toNat < 0x40000000 then va &&& Config.eeAliasMask
      else va &&& Config.physMask := rfl

/-- The EE scratchpad window is passed through (R101). -/
theorem eeTranslate_scratchpad {va : Word} (h : 0x70000000 ≤ va.toNat ∧ va.toNat < 0x70004000) :
    eeTranslate va = va := by
  rw [eeTranslate_eq, if_pos h]

/-- The EE uncached window keeps the low 28 bits (R101). -/
theorem eeTranslate_uncached {va : Word} (h : 0x30000000 ≤ va.toNat ∧ va.toNat < 0x40000000) :
    (eeTranslate va).toNat = va.toNat % 2 ^ 28 := by
  rw [eeTranslate_eq, if_neg (by omega), if_pos h]
  exact toNat_and_mask va Config.eeAliasMask 28 rfl

/-- Every other EE address keeps the low 29 bits (R101). -/
theorem eeTranslate_physical {va : Word} (hspr : ¬ (0x70000000 ≤ va.toNat ∧ va.toNat < 0x70004000))
    (halias : ¬ (0x30000000 ≤ va.toNat ∧ va.toNat < 0x40000000)) :
    (eeTranslate va).toNat = va.toNat % 2 ^ 29 := by
  rw [eeTranslate_eq, if_neg hspr, if_neg halias]
  exact toNat_and_mask va Config.physMask 29 rfl

/-- Every IOP address keeps the low 29 bits (R102). -/
theorem toNat_iopTranslate (va : Word) : (iopTranslate va).toNat = va.toNat % 2 ^ 29 :=
  toNat_and_mask va Config.physMask 29 rfl

/-- Settles O33: a lemma for each window of the address space. -/
theorem translationMasksTheAddress : Obligations.TranslationMasksTheAddress := fun va =>
  ⟨eeTranslate_scratchpad, eeTranslate_uncached, eeTranslate_physical, toNat_iopTranslate va⟩

end Sys2Proof.Machine
end

section
/-! SUPPORT. Fetch: its three outcomes, what a failed one makes of a step, and its statement (20_memory.md R113). -/

namespace Sys2Proof.Machine

theorem cpu_of_turn {s : State} {c : Cpu} (h : s.turn = .cpu c) : s.cpu = c := by simp [State.cpu, h]

theorem fetch_misaligned {s : State} (ha : s.pc.toNat % 4 ≠ 0) : fetch s = .error (.misalignedFetch s.pc) :=
  if_pos ha

theorem fetch_unmapped {s : State} (ha : s.pc.toNat % 4 = 0) (hp : pageEntry s.cpu (translate s.cpu s.pc) = none) :
    fetch s = .error (.unmappedAccess s.pc 4 false) := by
  simp [fetch, State.fetchAddr, ha, hp]

theorem fetch_page {s : State} {r : Region} (ha : s.pc.toNat % 4 = 0)
    (hp : pageEntry s.cpu (translate s.cpu s.pc) = some r) :
    fetch s = .ok ((s.mem.readLE (regionKey r (translate s.cpu s.pc)) 4).setWidth 32) := by
  simp [fetch, State.fetchAddr, ha, hp]

/-- A fetch that fails is the end of the step. -/
theorem step_fault_of_fetch {s : State} {c : Cpu} {f : Fault} (ht : s.turn = .cpu c) (hf : fetch s = .error f) :
    step s = .fault f := by
  simp [step, agentAction, ht, cpuStep, hf, andThen]

/-- Byte `k` of a word read from memory is the byte at key `a + k` (R130). -/
theorem extract_readLE_word (m : Memory) (a : Nat) {k : Nat} (hk : k < 4) :
    ((m.readLE a 4).setWidth 32).extractLsb' (8 * k) 8 = m.read (a + k) := by
  rw [BitVec.extractLsb'_setWidth_of_le (by omega), extract_readLE m a 4 k hk (by omega)]

/-- Settles O6: an absent entry stops the step in the fetch, before anything that could reach a device. -/
theorem fetchReadsThePageOrFaults : Obligations.FetchReadsThePageOrFaults := by
  intro s c ht
  obtain rfl := cpu_of_turn ht
  refine ⟨fun ha => ?_, fun ha hp => ?_, fun ha r hp => ?_⟩
  · exact step_fault_of_fetch ht (fetch_misaligned ha)
  · exact step_fault_of_fetch ht (fetch_unmapped ha hp)
  · exact ⟨_, fetch_page ha hp, fun k hk => extract_readLE_word s.mem _ hk⟩

end Sys2Proof.Machine
end

section
/-! SUPPORT. The memory primitives' remaining cases (Laws/Ops.lean has those of a page), and their statements
(20_memory.md R110, R111). -/

namespace Sys2Proof.Machine

theorem misalignedFor_iff {n : Nat} {va : Word} :
    misalignedFor n va = true ↔ (n = 2 ∨ n = 4 ∨ n = 8) ∧ va.toNat % n ≠ 0 := by
  simp [misalignedFor, or_assoc]

/-- An access that R110 does not call misaligned passes the model's check. -/
theorem misalignedFor_eq_false {n : Nat} {va : Word} (h : ¬ ((n = 2 ∨ n = 4 ∨ n = 8) ∧ va.toNat % n ≠ 0)) :
    misalignedFor n va = false := Bool.eq_false_iff.2 (mt misalignedFor_iff.1 h)

theorem storesDiscarded_iff {s : State} :
    s.storesDiscarded = true ↔ s.cpu = .iop ∧ s.iop.ctl.status.getLsbD 16 = true := by
  simp [State.storesDiscarded, Config.iopIscDiscardsStores]

/-- An `n`-byte read is below `2 ^ (8 * n)`. -/
theorem readLE_lt (m : Memory) (a n : Nat) : (m.readLE a n).toNat < 2 ^ (8 * n) := by
  refine Nat.lt_pow_two_of_testBit _ fun i hi => ?_
  rw [BitVec.testBit_toNat]
  by_cases h : i < 128
  · simp [getLsbD_readLE m a n i h, Nat.not_lt.2 hi]
  · exact BitVec.getLsbD_of_ge _ _ (by omega)

theorem memRead_misaligned {s : State} {va : Word} {n : Nat} (hm : misalignedFor n va = true) :
    memRead s va n = .fault (.misaligned va n) := if_pos hm

theorem memRead_mmio {s : State} {va : Word} {n : Nat} (hm : misalignedFor n va = false)
    (hp : pageEntry s.cpu (translate s.cpu va) = none) :
    memRead s va n = mmioRead s.cpu s (translate s.cpu va) n := by
  simp [memRead, hm, hp]

/-- Settles O24: the alignment check, then a page's bytes, then the dispatcher, as R110 orders them. -/
theorem memReadFollowsItsRule : Obligations.MemReadFollowsItsRule := by
  intro s va n
  refine ⟨fun hn ha => memRead_misaligned (misalignedFor_iff.2 ⟨hn, ha⟩), fun ha => ?_⟩
  have hm := misalignedFor_eq_false ha
  refine ⟨fun r hp hn => ?_, memRead_mmio hm⟩
  exact ⟨_, memRead_page hm hp, readLE_lt s.mem _ n, fun k hk => extract_readLE s.mem _ n k hk hn⟩

theorem memWrite_discarded {s : State} {va : Word} {n : Nat} {v : Quad} (hd : s.storesDiscarded = true) :
    memWrite s va n v = .next s := if_pos hd

theorem memWrite_misaligned {s : State} {va : Word} {n : Nat} {v : Quad} (hd : s.storesDiscarded = false)
    (hm : misalignedFor n va = true) : memWrite s va n v = .fault (.misaligned va n) := by
  simp [memWrite, hd, hm]

theorem memWrite_rom {s : State} {va : Word} {n : Nat} {v : Quad} {r : Region} (hd : s.storesDiscarded = false)
    (hm : misalignedFor n va = false) (hp : pageEntry s.cpu (translate s.cpu va) = some r)
    (hw : r.writable = false) : memWrite s va n v = .fault (.romWrite (translate s.cpu va)) := by
  simp [memWrite, hd, hm, hp, storeToPage, hw, Config.romWrite]

theorem memWrite_mmio {s : State} {va : Word} {n : Nat} {v : Quad} (hd : s.storesDiscarded = false)
    (hm : misalignedFor n va = false) (hp : pageEntry s.cpu (translate s.cpu va) = none) :
    memWrite s va n v = mmioWrite s.cpu s (translate s.cpu va) n v := by
  simp [memWrite, hd, hm, hp]

/-- Settles O25: the checks stand in R111's order, so each case's lemma has the ones before it as hypotheses. -/
theorem memWriteFollowsItsRule : Obligations.MemWriteFollowsItsRule := by
  intro s va n v
  refine ⟨fun hc hisc => memWrite_discarded (storesDiscarded_iff.2 ⟨hc, hisc⟩), fun hisc => ?_⟩
  have hd : s.storesDiscarded = false := Bool.eq_false_iff.2 (mt storesDiscarded_iff.1 hisc)
  refine ⟨fun hn ha => memWrite_misaligned hd (misalignedFor_iff.2 ⟨hn, ha⟩), fun ha => ?_⟩
  have hm := misalignedFor_eq_false ha
  refine ⟨fun r hp hw => ?_, fun r hp hw => memWrite_rom hd hm hp hw, memWrite_mmio hd hm⟩
  exact ⟨_, memWrite_page hd hm hp hw, writeLE_written s _ n v⟩

end Sys2Proof.Machine
end

section
/-! SUPPORT. The MMIO dispatcher: the addresses of the in-block registers, what serves an access, and its statement
(20_memory.md R120). -/

namespace Sys2Proof.Machine

/-! ## Register maps as lists of addresses -/

/-- The addresses of the registers of a list of device blocks, from the offsets each block has. -/
def blockAddrs {α : Type} (blocks : List (α × Nat)) (offsets : α → List Nat) : List Nat :=
  blocks.flatMap fun xb => (offsets xb.1).map (xb.2 + ·)

/-- A search of a register map's blocks succeeds at the blocks' register addresses. -/
theorem findSome?_blocks_isSome_iff {α β : Type} {f : α → Nat → Option β} {offsets : α → List Nat}
    (hf : ∀ x off, (f x off).isSome = true ↔ off ∈ offsets x) (blocks : List (α × Nat)) (pa : Nat) :
    (blocks.findSome? fun (x, b) => if b ≤ pa then f x (pa - b) else none).isSome = true ↔
      pa ∈ blockAddrs blocks offsets := by
  simp only [List.findSome?_isSome_iff, blockAddrs, List.mem_flatMap, List.mem_map]
  refine exists_congr fun xb => and_congr_right fun _ => ⟨fun h => ?_, fun ⟨off, hoff, hpa⟩ => ?_⟩
  · split at h
    · next hb => exact ⟨pa - xb.2, (hf _ _).1 h, by omega⟩
    · simp at h
  · rw [if_pos (by omega), show pa - xb.2 = off by omega]
    exact (hf _ _).2 hoff

/-- A search of the registers that stand alone succeeds at their addresses. -/
theorem findSome?_singles_isSome_iff {α : Type} (regs : List (α × Nat)) (pa : Nat) :
    (regs.findSome? fun (r, a) => if pa = a then some r else none).isSome = true ↔ pa ∈ regs.map Prod.snd := by
  simp only [List.findSome?_isSome_iff, List.mem_map]
  refine exists_congr fun ra => and_congr_right fun _ => ?_
  by_cases h : pa = ra.2 <;> simp [h, eq_comm]

/-- The offsets of an EE timer block; T_HOLD on timers 0 and 1 only (60_exceptions.md R540). -/
def eeTimerOffsets (n : Fin 4) : List Nat := [0x00, 0x10, 0x20] ++ if n.val ≤ 1 then [0x30] else []

/-- The offsets of an EE channel block (60_exceptions.md R480). -/
def eeChannelOffsets : List Nat := [0x00, 0x10, 0x20, 0x30, 0x40, 0x50, 0x80]

/-- The offsets of an IOP channel block (60_exceptions.md R520). -/
def iopChannelOffsets : List Nat := [0x0, 0x4, 0x8, 0xC]

/-- The offsets of an IOP timer block (60_exceptions.md R570). -/
def iopTimerOffsets : List Nat := [0x0, 0x4, 0x8]

theorem eeTimerReg_isSome_iff (n : Fin 4) (off : Nat) : (eeTimerReg n off).isSome = true ↔ off ∈ eeTimerOffsets n := by
  unfold eeTimerReg eeTimerOffsets
  by_cases hn : n.val ≤ 1 <;> split <;> simp_all

theorem eeChannelReg_isSome_iff (ch : Fin 10) (off : Nat) :
    (eeChannelReg ch off).isSome = true ↔ off ∈ eeChannelOffsets := by
  unfold eeChannelReg eeChannelOffsets
  split <;> simp_all

theorem iopChannelReg_isSome_iff (ch : Fin 13) (off : Nat) :
    (iopChannelReg ch off).isSome = true ↔ off ∈ iopChannelOffsets := by
  unfold iopChannelReg iopChannelOffsets
  split <;> simp_all

theorem iopTimerReg_isSome_iff (n : Fin 6) (off : Nat) :
    (iopTimerReg n off).isSome = true ↔ off ∈ iopTimerOffsets := by
  unfold iopTimerReg iopTimerOffsets
  split <;> simp_all

/-- The addresses at which one CPU's side has an in-block register. -/
def registerAddrs : Cpu → List Nat
  | .ee => blockAddrs eeTimerBlocks eeTimerOffsets ++ blockAddrs eeChannelBlocks (fun _ => eeChannelOffsets) ++
      eeSingleRegs.map Prod.snd
  | .iop => blockAddrs iopChannelBlocks (fun _ => iopChannelOffsets) ++
      blockAddrs iopTimerBlocks (fun _ => iopTimerOffsets) ++ iopSingleRegs.map Prod.snd

theorem eeRegAt_isSome_iff (pa : Nat) : (eeRegAt pa).isSome = true ↔ pa ∈ registerAddrs .ee := by
  simp only [eeRegAt, Option.orElse_eq_orElse, Option.orElse_eq_or, Option.isSome_or, Bool.or_eq_true,
    findSome?_blocks_isSome_iff eeTimerReg_isSome_iff, findSome?_blocks_isSome_iff eeChannelReg_isSome_iff,
    findSome?_singles_isSome_iff, registerAddrs, List.mem_append, or_assoc]

theorem iopRegAt_isSome_iff (pa : Nat) : (iopRegAt pa).isSome = true ↔ pa ∈ registerAddrs .iop := by
  simp only [iopRegAt, Option.orElse_eq_orElse, Option.orElse_eq_or, Option.isSome_or, Bool.or_eq_true,
    findSome?_blocks_isSome_iff iopChannelReg_isSome_iff, findSome?_blocks_isSome_iff iopTimerReg_isSome_iff,
    findSome?_singles_isSome_iff, registerAddrs, List.mem_append, or_assoc]

/-! ## What serves an access -/

/-- In an in-block range only a 4-byte access at a register's address is served. -/
theorem mmioTarget_eq_unhandled_iff {c : Cpu} {pa : Word} {n : Nat}
    (hin : (Config.mmio c).any (fun r => r.holds pa.toNat) = true) :
    mmioTarget c pa n = .unhandled ↔ ¬ (n = 4 ∧ pa.toNat ∈ registerAddrs c) := by
  unfold mmioTarget
  rw [if_pos hin]
  by_cases hn : n = 4
  · cases c with
    | ee => rw [← eeRegAt_isSome_iff]; cases eeRegAt pa.toNat <;> simp [hn]
    | iop => rw [← iopRegAt_isSome_iff]; cases iopRegAt pa.toNat <;> simp [hn]
  · simp [hn]

theorem mmioTarget_external {c : Cpu} {pa : Word} {n : Nat}
    (hin : (Config.mmio c).any (fun r => r.holds pa.toNat) = false)
    (hext : (Config.externalMmio c).any (fun r => r.holds pa.toNat) = true) : mmioTarget c pa n = .external := by
  simp [mmioTarget, hin, hext]

theorem mmioTarget_outside {c : Cpu} {pa : Word} {n : Nat}
    (hin : (Config.mmio c).any (fun r => r.holds pa.toNat) = false)
    (hext : (Config.externalMmio c).any (fun r => r.holds pa.toNat) = false) : mmioTarget c pa n = .unhandled := by
  simp [mmioTarget, hin, hext]

/-- A read that something serves gives a value. -/
theorem mmioRead_value {c : Cpu} {s : State} {pa : Word} {n : Nat} (h : mmioTarget c pa n ≠ .unhandled) :
    ∃ x u, mmioRead c s pa n = .value x u := by
  unfold mmioRead
  cases ht : mmioTarget c pa n with
  | unhandled => exact absurd ht h
  | _ => exact ⟨_, _, rfl⟩

theorem mmioRead_external {c : Cpu} {s : State} {pa : Word} {n : Nat} (h : mmioTarget c pa n = .external) :
    mmioRead c s pa n = .value (truncBytes n s.nextDraw) s.afterDraw := by
  simp [mmioRead, h]

/-- An access that nothing serves faults, a read and a write alike (R120, R121). -/
theorem mmio_unhandled {c : Cpu} {s : State} {pa : Word} {n : Nat} {v : Quad} (h : mmioTarget c pa n = .unhandled) :
    mmioRead c s pa n = .fault (.unhandledMmio pa n false) ∧
      mmioWrite c s pa n v = .fault (.unhandledMmio pa n true) := by
  simp [mmioRead, mmioWrite, h]

/-- Settles O53: the statement's register addresses are those of the model's register maps in another order. -/
theorem accessesThatNothingServesFault : Obligations.AccessesThatNothingServesFault := by
  intro s c pa n v inBlock external registers
  have hreg : pa.toNat ∈ registers ↔ pa.toNat ∈ registerAddrs c := by
    cases c with
    | ee => exact List.Perm.mem_iff (by decide)
    | iop => exact List.Perm.mem_iff (by decide)
  rw [hreg]
  refine ⟨fun hin hn ha => ?_, fun hin h => ?_, fun hin hext => ?_, fun hin hext => ?_⟩
  · exact mmioRead_value fun hu => (mmioTarget_eq_unhandled_iff hin).1 hu ⟨hn, ha⟩
  · exact mmio_unhandled ((mmioTarget_eq_unhandled_iff hin).2 h)
  · exact ⟨_, mmioRead_external (mmioTarget_external hin hext)⟩
  · exact mmio_unhandled (mmioTarget_outside hin hext)

end Sys2Proof.Machine
end

section
/-! SUPPORT. The decoder's tables: where each redirects, its empty and its refused entries (30_encoding.md R180 to
R186); and the statement about sample words. -/

namespace Sys2Proof

/-! ## The primary table -/

section
variable {c : Cpu} {w : Word}

theorem decode_special (h : fieldOp w = 0) : decode c w = decodeSpecial c w := by simp [decode, h]

theorem decode_regimm (h : fieldOp w = 1) : decode c w = decodeRegimm c w := by simp [decode, h]

theorem decode_cop0 (h : fieldOp w = 0x10) : decode c w = decodeCop0 c w := by simp [decode, h]

theorem decode_mmi (h : fieldOp w = 0x1C) : decode c w = decodeMmi c w := by simp [decode, h]

/-- The opcodes empty on both CPUs. -/
theorem decode_illegal (h : (fieldOp w).toNat ∈
    [0x13, 0x1D, 0x30, 0x32, 0x34, 0x35, 0x38, 0x3A, 0x3B, 0x3C, 0x3D]) : decode c w = .illegal := by
  unfold decode
  generalize (fieldOp w).toNat = n at h ⊢
  fin_cases h <;> rfl

/-- The opcodes empty on the IOP alone. -/
theorem decode_iop_illegal (h : (fieldOp w).toNat ∈
    [0x11, 0x12, 0x14, 0x15, 0x16, 0x17, 0x18, 0x19, 0x1A, 0x1B, 0x1C, 0x1E, 0x1F, 0x27, 0x2C, 0x2D, 0x2F, 0x31, 0x33,
      0x36, 0x37, 0x39, 0x3E, 0x3F]) : decode .iop w = .illegal := by
  unfold decode
  generalize (fieldOp w).toNat = n at h ⊢
  fin_cases h <;> rfl

/-- The unaligned loads and stores are refused on both CPUs. -/
theorem decode_notAdmitted (h : (fieldOp w).toNat ∈ [0x22, 0x26, 0x2A, 0x2E]) : decode c w = .notAdmitted := by
  unfold decode
  generalize (fieldOp w).toNat = n at h ⊢
  fin_cases h <;> rfl

/-- The opcodes routed to COP1 and COP2. -/
theorem decode_coprocessor (h : (fieldOp w).toNat ∈ [0x11, 0x12, 0x31, 0x39, 0x36, 0x3E]) :
    decode c w = eeCoprocessor c := by
  unfold decode
  generalize (fieldOp w).toNat = n at h ⊢
  fin_cases h <;> rfl

/-- The opcodes refused on the EE. -/
theorem decode_eeRefused (h : (fieldOp w).toNat ∈ [0x18, 0x1A, 0x1B, 0x2C, 0x2D, 0x33]) :
    decode c w = eeRefused c := by
  unfold decode
  generalize (fieldOp w).toNat = n at h ⊢
  fin_cases h <;> rfl

/-! ## SPECIAL -/

theorem decodeSpecial_illegal (h : (fieldFunct w).toNat ∈
    [0x01, 0x05, 0x0E, 0x15, 0x1C, 0x1D, 0x1E, 0x1F, 0x35, 0x37, 0x39, 0x3D]) : decodeSpecial c w = .illegal := by
  unfold decodeSpecial
  generalize (fieldFunct w).toNat = n at h ⊢
  fin_cases h <;> rfl

theorem decodeSpecial_iop_illegal (h : (fieldFunct w).toNat ∈
    [0x0A, 0x0B, 0x0F, 0x14, 0x16, 0x17, 0x28, 0x29, 0x2C, 0x2D, 0x2E, 0x2F, 0x30, 0x31, 0x32, 0x33, 0x34, 0x36, 0x38,
      0x3A, 0x3B, 0x3C, 0x3E, 0x3F]) : decodeSpecial .iop w = .illegal := by
  unfold decodeSpecial
  generalize (fieldFunct w).toNat = n at h ⊢
  fin_cases h <;> rfl

theorem decodeSpecial_eeRefused (h : (fieldFunct w).toNat ∈
    [0x28, 0x29, 0x2C, 0x2E, 0x30, 0x31, 0x32, 0x33, 0x34, 0x36]) : decodeSpecial c w = eeRefused c := by
  unfold decodeSpecial
  generalize (fieldFunct w).toNat = n at h ⊢
  fin_cases h <;> rfl

/-! ## REGIMM -/

theorem decodeRegimm_illegal (h : (fieldRtBits w).toNat ∈
    [0x04, 0x05, 0x06, 0x07, 0x0D, 0x0F, 0x14, 0x15, 0x16, 0x17, 0x1A, 0x1B, 0x1C, 0x1D, 0x1E, 0x1F]) :
    decodeRegimm c w = .illegal := by
  unfold decodeRegimm
  generalize (fieldRtBits w).toNat = n at h ⊢
  fin_cases h <;> rfl

theorem decodeRegimm_iop_illegal (h : (fieldRtBits w).toNat ∈
    [0x02, 0x03, 0x08, 0x09, 0x0A, 0x0B, 0x0C, 0x0E, 0x12, 0x13, 0x18, 0x19]) :
    decodeRegimm .iop w = .illegal := by
  unfold decodeRegimm
  generalize (fieldRtBits w).toNat = n at h ⊢
  fin_cases h <;> rfl

theorem decodeRegimm_eeRefused (h : (fieldRtBits w).toNat ∈ [0x08, 0x09, 0x0A, 0x0B, 0x0C, 0x0E, 0x18, 0x19]) :
    decodeRegimm c w = eeRefused c := by
  unfold decodeRegimm
  generalize (fieldRtBits w).toNat = n at h ⊢
  fin_cases h <;> rfl

/-! ## COP0 and its CO tables -/

/-- Every entry but the four listed is the table's default. -/
theorem decodeCop0_illegal (h : (fieldRsBits w).toNat ∉ [0x00, 0x04, 0x08, 0x10]) : decodeCop0 c w = .illegal := by
  unfold decodeCop0
  split <;> simp_all

/-- The entry of the COP0 condition branches. -/
theorem decodeCop0_eeRefused (h : fieldRsBits w = 0x08) : decodeCop0 c w = eeRefused c := by simp [decodeCop0, h]

theorem decodeCop0_coEe (h : fieldRsBits w = 0x10) : decodeCop0 .ee w = decodeCoEe w := by simp [decodeCop0, h]

theorem decodeCop0_coIop (h : fieldRsBits w = 0x10) : decodeCop0 .iop w = decodeCoIop w := by simp [decodeCop0, h]

/-- The CO tables refuse what they do not list; they have no empty entry. -/
theorem decodeCoEe_notAdmitted (h : (fieldFunct w).toNat ∉ [0x01, 0x02, 0x06, 0x08, 0x18, 0x38, 0x39]) :
    decodeCoEe w = .notAdmitted := by
  unfold decodeCoEe
  split <;> simp_all

theorem decodeCoIop_notAdmitted (h : fieldFunct w ≠ 0x10) : decodeCoIop w = .notAdmitted := by
  unfold decodeCoIop
  split
  · next hf => exact absurd (BitVec.eq_of_toNat_eq hf) h
  · rfl

/-! ## MMI -/

/-- MMI is keyed by funct and sa together; what is not listed is refused, not illegal. -/
theorem decodeMmi_ee_notAdmitted (h : ((fieldFunct w).toNat, (fieldSa w).toNat) ∉
    [(0x08, 0x00), (0x08, 0x01), (0x09, 0x0E), (0x09, 0x12), (0x09, 0x13), (0x29, 0x0E), (0x29, 0x12), (0x29, 0x13)]) :
    decodeMmi .ee w = .notAdmitted := by
  unfold decodeMmi decodeMmiEe
  split <;> simp_all

end

/-- Settles O3: closed words, which the decoder evaluates. -/
theorem sampleWordsDecode : Obligations.SampleWordsDecode := by
  unfold Obligations.SampleWordsDecode
  decide

end Sys2Proof
end

section
/-! SUPPORT. A step whose word is no admitted instruction, and the statement about the tables' empty and refused
entries (30_encoding.md R185, R186). -/

namespace Sys2Proof.Machine

section
variable {s : State} {c : Cpu} {w : Word}

/-- What a step makes of a fetched word's class, before steps 5 and 6 (R200). -/
theorem step_of_fetch (ht : s.turn = .cpu c) (hf : fetch s = .ok w) :
    step s = andThen (execDecoded (decode c w) w s) fun t => .next (afterAction s.turn (finishStep t)) := by
  simp only [step, agentAction, ht, cpuStep, hf, cpu_of_turn ht]
  cases execDecoded (decode c w) w s <;> rfl

theorem step_of_illegal (ht : s.turn = .cpu c) (hf : fetch s = .ok w) (hd : decode c w = .illegal) :
    step s = .fault (.illegalInstruction w s.pc) := by
  rw [step_of_fetch ht hf, hd]; rfl

theorem step_of_notAdmitted (ht : s.turn = .cpu c) (hf : fetch s = .ok w) (hd : decode c w = .notAdmitted) :
    step s = .refused (.notAdmitted w s.pc) := by
  rw [step_of_fetch ht hf, hd]; rfl

theorem step_of_externalCoprocessor (ht : s.turn = .cpu c) (hf : fetch s = .ok w)
    (hd : decode c w = .externalCoprocessor) : step s = .refused (.externalCoprocessor w s.pc) := by
  rw [step_of_fetch ht hf, hd]; rfl

end

/-- Settles O4: each list of the statement is a lemma about one table, which the word reaches through its opcode; the
class of the entry alone decides the stop. -/
theorem emptyAndRefusedWordsStop : Obligations.EmptyAndRefusedWordsStop := by
  intro s c w ht hf
  refine ⟨fun h => step_of_illegal ht hf ?bothEmpty, fun hc h => step_of_illegal ht hf ?iopEmpty,
    fun h => step_of_notAdmitted ht hf (decode_notAdmitted h),
    fun hc h => step_of_externalCoprocessor ht hf ?external,
    fun hc h => step_of_notAdmitted ht hf ?eeRefused,
    fun hc ⟨hop, hrs, hfn⟩ => step_of_notAdmitted ht hf ?iopCo⟩
  case bothEmpty =>
    obtain hop | ⟨hop, hfn⟩ | ⟨hop, hrt⟩ | ⟨hop, hrs⟩ := h
    · exact decode_illegal hop
    · exact (decode_special hop).trans (decodeSpecial_illegal hfn)
    · exact (decode_regimm hop).trans (decodeRegimm_illegal hrt)
    · exact (decode_cop0 hop).trans (decodeCop0_illegal hrs)
  case iopEmpty =>
    subst hc
    obtain hop | ⟨hop, hfn⟩ | ⟨hop, hrt⟩ | ⟨hop, hrs⟩ := h
    · exact decode_iop_illegal hop
    · exact (decode_special hop).trans (decodeSpecial_iop_illegal hfn)
    · exact (decode_regimm hop).trans (decodeRegimm_iop_illegal hrt)
    · exact (decode_cop0 hop).trans (decodeCop0_eeRefused hrs)
  case external =>
    subst hc
    exact decode_coprocessor h
  case eeRefused =>
    subst hc
    obtain hop | ⟨hop, hfn⟩ | ⟨hop, hrt⟩ | ⟨hop, hmmi⟩ | ⟨hop, hrs⟩ | ⟨hop, hrs, hfn⟩ := h
    · exact decode_eeRefused hop
    · exact (decode_special hop).trans (decodeSpecial_eeRefused hfn)
    · exact (decode_regimm hop).trans (decodeRegimm_eeRefused hrt)
    · exact (decode_mmi hop).trans (decodeMmi_ee_notAdmitted hmmi)
    · exact (decode_cop0 hop).trans (decodeCop0_eeRefused hrs)
    · exact (decode_cop0 hop).trans ((decodeCop0_coEe hrs).trans (decodeCoEe_notAdmitted hfn))
  case iopCo =>
    subst hc
    exact (decode_cop0 hop).trans ((decodeCop0_coIop hrs).trans (decodeCoIop_notAdmitted hfn))

end Sys2Proof.Machine
end

section
/-! SUPPORT. Steps 5 and 6 of a CPU step where no interrupt is taken, and the statements about `Advance` and the delay
slot (40_control_flow.md R203, R204). -/

namespace Sys2Proof.Machine

/-- Settles O7: `Advance` is one write of the control state. -/
theorem advanceAppliesThenLatches : Obligations.AdvanceAppliesThenLatches := fun s => setCtl_written s _

/-- `CountTick` touches no field of the control state but Cause (60_exceptions.md R561). -/
theorem countTick_ctl (s : State) : (countTick s).ctl = { s.ctl with cause := (countTick s).ctl.cause } := by
  unfold countTick
  cases h : s.cpu
  · simp_all [State.ctl, State.cpu]
  · rfl

/-! ## The delay-slot controller after a step without an interrupt -/

theorem pc_after_step (s : State) :
    (countTick (advance s)).pc = if s.ctl.inDelaySlot then s.ctl.branchTarget else s.pc + 4 := by
  rw [State.pc, countTick_ctl, (advanceAppliesThenLatches s).ctl]; rfl

theorem inDelaySlot_after_step (s : State) : (countTick (advance s)).ctl.inDelaySlot = s.ctl.branchPending := by
  rw [countTick_ctl, (advanceAppliesThenLatches s).ctl]

theorem branchPending_after_step (s : State) : (countTick (advance s)).ctl.branchPending = false := by
  rw [countTick_ctl, (advanceAppliesThenLatches s).ctl]

theorem branchTarget_after_step (s : State) : (countTick (advance s)).ctl.branchTarget = s.ctl.branchTarget := by
  rw [countTick_ctl, (advanceAppliesThenLatches s).ctl]

/-- The step of an instruction that completes, where no interrupt is taken (R200). -/
theorem cpuStep_of_not_interrupted {s u : State} {w : Word} {i : Instr} (hf : fetch s = .ok w)
    (hd : decode s.cpu w = .instr i) (hx : exec i s = .next u)
    (hint : (countTick (advance u)).interruptTaken = false) : cpuStep s = .next (countTick (advance u)) := by
  simp [cpuStep, hf, hd, execDecoded, hx, andThen, finishStep, interruptCheck, hint]

/-- Settles O8: the branch's `Advance` moves pc by 4 and latches its request; the slot's applies the latched target. -/
theorem delaySlotRunsBeforeTheTarget : Obligations.DelaySlotRunsBeforeTheTarget := by
  intro s s1 w i target hslot _ hf hd hx hctl hint
  have hpc : s1.pc = s.pc := by rw [State.pc, hctl]; rfl
  have latched : (countTick (advance s1)).ctl.inDelaySlot = true := by
    rw [inDelaySlot_after_step, hctl]; rfl
  have recorded : (countTick (advance s1)).ctl.branchTarget = target := by
    rw [branchTarget_after_step, hctl]; rfl
  refine ⟨_, cpuStep_of_not_interrupted hf hd hx hint, ?_, latched, recorded, ?_⟩
  · simp [pc_after_step, hctl, hpc, CpuCtl.requesting, hslot]
  · intro w' j t1 hf' hd' hx' hctl' hint'
    refine ⟨_, cpuStep_of_not_interrupted hf' hd' hx' hint', ?_, ?_, branchPending_after_step t1⟩
    · simp [pc_after_step, hctl', latched, recorded]
    · rw [inDelaySlot_after_step, hctl', branchPending_after_step]

end Sys2Proof.Machine
end

section
/-! SUPPORT. Branches and jumps: their conditions, what each shared shape does, and their statements
(40_control_flow.md R206 to R211, R220 to R239). -/

namespace Sys2Proof.Machine

/-! ## Conditions -/

section
variable (s : State) (rs rt : Reg)

theorem test2_condEq : s.test2 condEq rs rt = true ↔ s.unsignedW rs = s.unsignedW rt := by
  unfold State.test2 State.unsignedW condEq
  cases s.cpu <;> simp [BitVec.toNat_inj]

theorem test2_condNe : s.test2 condNe rs rt = true ↔ s.unsignedW rs ≠ s.unsignedW rt := by
  unfold State.test2 State.unsignedW condNe
  cases s.cpu <;> simp [BitVec.toNat_inj]

theorem test1_condLez : s.test1 condLez rs = true ↔ s.signedW rs ≤ 0 := by
  unfold State.test1 State.signedW condLez
  cases s.cpu <;> exact decide_eq_true_iff

theorem test1_condGtz : s.test1 condGtz rs = true ↔ 0 < s.signedW rs := by
  unfold State.test1 State.signedW condGtz
  cases s.cpu <;> exact decide_eq_true_iff

theorem test1_condLtz : s.test1 condLtz rs = true ↔ s.signedW rs < 0 := by
  unfold State.test1 State.signedW condLtz
  cases s.cpu <;> exact decide_eq_true_iff

theorem test1_condGez : s.test1 condGez rs = true ↔ 0 ≤ s.signedW rs := by
  unfold State.test1 State.signedW condGez
  cases s.cpu <;> exact decide_eq_true_iff

end

/-! ## The shared shapes as one write of the control state -/

@[simp] theorem link_ctl (s : State) (rd : Reg) : (s.link rd).ctl = s.ctl := w32s_ctl s rd _

theorem branchWhen_eq_setCtl {taken : Bool} {p : Prop} [Decidable p] (hp : taken = true ↔ p) (target : Word)
    (s : State) : branchWhen taken target s = s.setCtl (if p then s.ctl.requesting target else s.ctl) := by
  by_cases h : p
  · simp only [branchWhen, hp, if_pos h]; rfl
  · simp only [branchWhen, hp, if_neg h, setCtl_self]

theorem branchWhenLikely_eq_setCtl {taken : Bool} {p : Prop} [Decidable p] (hp : taken = true ↔ p) (target : Word)
    (s : State) :
    branchWhenLikely taken target s = s.setCtl (if p then s.ctl.requesting target else s.ctl.skipping) := by
  by_cases h : p <;> simp only [branchWhenLikely, hp, h, if_true, if_false] <;> rfl

/-! ## Outcomes -/

section
variable {s : State} {i : Instr} {rd : Reg} {imm : BitVec 16} {taken : Bool} {p : Prop} [Decidable p]

/-- A branch that writes the control state alone. -/
theorem branchOutcome_of_setCtl {c : CpuCtl} (hx : exec i s = outsideSlot s (.next (s.setCtl c))) :
    BranchOutcome i s none c :=
  ⟨fun h => hx.trans (if_pos h), fun h => ⟨_, hx.trans (outsideSlot_eq_next.2 ⟨h, rfl⟩), setCtl_written s c⟩⟩

/-- A branch that writes the link, then the control state (R211). -/
theorem branchOutcome_of_link_setCtl {c : CpuCtl}
    (hx : exec i s = outsideSlot s (.next ((s.link rd).setCtl c))) : BranchOutcome i s (some rd) c :=
  ⟨fun h => hx.trans (if_pos h), fun h => ⟨_, hx.trans (outsideSlot_eq_next.2 ⟨h, rfl⟩), s.link rd,
    w32s_written s rd _, setCtl_written _ c⟩⟩

theorem condBranch_outcome (hx : exec i s = condBranch taken imm s) (hp : taken = true ↔ p) :
    BranchOutcome i s none (if p then s.ctl.requesting (branchTargetOf s.pc imm) else s.ctl) :=
  branchOutcome_of_setCtl (by rw [hx, condBranch, branchWhen_eq_setCtl hp])

theorem linkBranch_outcome (hx : exec i s = linkBranch taken imm s) (hp : taken = true ↔ p) :
    BranchOutcome i s (some 31) (if p then s.ctl.requesting (branchTargetOf s.pc imm) else s.ctl) :=
  branchOutcome_of_link_setCtl (by rw [hx, linkBranch, branchWhen_eq_setCtl hp, link_ctl])

theorem likelyBranch_outcome (hx : exec i s = eeOnly i s (likelyBranch taken imm s)) (hp : taken = true ↔ p) :
    EeBranchOutcome i s none (if p then s.ctl.requesting (branchTargetOf s.pc imm) else s.ctl.skipping) :=
  ⟨fun hc => branchOutcome_of_setCtl (by rw [hx, eeOnly_ee hc, likelyBranch, branchWhenLikely_eq_setCtl hp]),
    fun hc => hx.trans (eeOnly_iop hc)⟩

theorem linkLikelyBranch_outcome (hx : exec i s = eeOnly i s (linkLikelyBranch taken imm s))
    (hp : taken = true ↔ p) :
    EeBranchOutcome i s (some 31) (if p then s.ctl.requesting (branchTargetOf s.pc imm) else s.ctl.skipping) :=
  ⟨fun hc => branchOutcome_of_link_setCtl
      (by rw [hx, eeOnly_ee hc, linkLikelyBranch, branchWhenLikely_eq_setCtl hp, link_ctl]),
    fun hc => hx.trans (eeOnly_iop hc)⟩

theorem jump_outcome {t : Word} (hx : exec i s = outsideSlot s (.next (s.requestBranch t))) :
    BranchOutcome i s none (s.ctl.requesting t) :=
  branchOutcome_of_setCtl hx

theorem linkJump_outcome {t : Word} (hx : exec i s = outsideSlot s (.next ((s.link rd).requestBranch t))) :
    BranchOutcome i s (some rd) (s.ctl.requesting t) :=
  branchOutcome_of_link_setCtl (by rw [hx, State.requestBranch, link_ctl]; rfl)

end

/-! ## The statements -/

/-- Settles O20: each is the shape `condBranch` with its condition. -/
theorem conditionalBranchesComplete : Obligations.ConditionalBranchesComplete := fun s _ rs rt _ _ =>
  ⟨⟨by simp [decode], condBranch_outcome rfl (test2_condEq s rs rt)⟩,
    ⟨by simp [decode], condBranch_outcome rfl (test2_condNe s rs rt)⟩,
    ⟨by simp [decode], condBranch_outcome rfl (test1_condLez s rs)⟩,
    ⟨by simp [decode], condBranch_outcome rfl (test1_condGtz s rs)⟩,
    ⟨by simp [decode_regimm, decodeRegimm], condBranch_outcome rfl (test1_condLtz s rs)⟩,
    ⟨by simp [decode_regimm, decodeRegimm], condBranch_outcome rfl (test1_condGez s rs)⟩⟩

/-- Settles O21: each is the shape `likelyBranch` with the condition of the ordinary branch. -/
theorem likelyBranchesComplete : Obligations.LikelyBranchesComplete := fun s rs rt _ _ =>
  ⟨⟨by simp [decode, eeEntry], likelyBranch_outcome rfl (test2_condEq s rs rt)⟩,
    ⟨by simp [decode, eeEntry], likelyBranch_outcome rfl (test2_condNe s rs rt)⟩,
    ⟨by simp [decode, eeEntry], likelyBranch_outcome rfl (test1_condLez s rs)⟩,
    ⟨by simp [decode, eeEntry], likelyBranch_outcome rfl (test1_condGtz s rs)⟩,
    ⟨by simp [decode_regimm, decodeRegimm, eeEntry], likelyBranch_outcome rfl (test1_condLtz s rs)⟩,
    ⟨by simp [decode_regimm, decodeRegimm, eeEntry], likelyBranch_outcome rfl (test1_condGez s rs)⟩⟩

/-- Settles O22: the condition is a test of the state before the link is written, rs = r31 included. -/
theorem linkingBranchesComplete : Obligations.LinkingBranchesComplete := fun s _ rs _ =>
  ⟨⟨by simp [decode_regimm, decodeRegimm], linkBranch_outcome rfl (test1_condLtz s rs)⟩,
    ⟨by simp [decode_regimm, decodeRegimm], linkBranch_outcome rfl (test1_condGez s rs)⟩,
    ⟨by simp [decode_regimm, decodeRegimm, eeEntry], linkLikelyBranch_outcome rfl (test1_condLtz s rs)⟩,
    ⟨by simp [decode_regimm, decodeRegimm, eeEntry], linkLikelyBranch_outcome rfl (test1_condGez s rs)⟩⟩

/-- Settles O23: the target of JR and JALR is a register of the state before the link is written. -/
theorem jumpsComplete : Obligations.JumpsComplete := fun _ _ _ _ _ _ _ _ =>
  ⟨⟨by simp [decode], jump_outcome rfl⟩,
    ⟨by simp [decode], linkJump_outcome rfl⟩,
    ⟨by simp [decode_special, decodeSpecial], jump_outcome rfl⟩,
    ⟨by simp [decode_special, decodeSpecial], linkJump_outcome rfl⟩⟩

end Sys2Proof.Machine
end

section
/-! SUPPORT. Arithmetic, logic and shifts at the operating width: what each shared shape completes with, and the
statements about the instructions of both CPUs that write one register (41_integer.md sections 2 to 4). -/

namespace Sys2Proof.Machine

/-! ## The shapes -/

section
variable {i : Instr} {s : State} {rd a b : Reg} {v : Word} {e : Dword} {p : Word}

theorem completes_w32s (hx : exec i s = .next (s.w32s rd v)) : CompletesWriting32 i s rd v :=
  ⟨_, hx, w32s_written s rd v⟩

/-- Each CPU's result need only be known on that CPU. -/
theorem regWritten_congr {e' : Dword} {p' : Word} {t : State} (h : RegWritten s rd e p t) (he : s.cpu = .ee → e = e')
    (hp : s.cpu = .iop → p = p') : RegWritten s rd e' p' t := by
  unfold RegWritten at h ⊢
  cases hc : s.cpu <;> rw [hc] at h
  · exact he hc ▸ h
  · exact hp hc ▸ h

theorem completes_wOp1 {f : (w : Nat) → BitVec w → BitVec w} (hx : exec i s = .next (s.wOp1 f rd a))
    (he : s.cpu = .ee → f 64 (s.ee64 a) = e) (hp : s.cpu = .iop → f 32 (s.iopReg a) = p) :
    CompletesWriting i s rd e p :=
  ⟨_, hx, regWritten_congr (wOp1_written s f rd a) he hp⟩

theorem completes_wOp2 {f : (w : Nat) → BitVec w → BitVec w → BitVec w} (hx : exec i s = .next (s.wOp2 f rd a b))
    (he : s.cpu = .ee → f 64 (s.ee64 a) (s.ee64 b) = e) (hp : s.cpu = .iop → f 32 (s.iopReg a) (s.iopReg b) = p) :
    CompletesWriting i s rd e p :=
  ⟨_, hx, regWritten_congr (wOp2_written s f rd a b) he hp⟩

end

/-! ## Overflow (41_integer.md R262) -/

section
variable {i : Instr} {s : State} {rd : Reg} {x : Int}

/-- A value that fits 32 signed bits does not overflow, and wrapping it changes nothing. -/
theorem writeOrOverflow_fits {trap : Bool} {v : Word} (hv : v.toInt = x) :
    writeOrOverflow trap rd x s = .next (s.w32s rd v) := by
  have fits : overflows32 v.toInt = false := by
    have lower := v.le_toInt
    have upper := v.toInt_lt
    simp only [overflows32, Bool.or_eq_false_iff, decide_eq_false_iff_not]
    omega
  subst hv
  simp [writeOrOverflow, fits, BitVec.ofInt_toInt]

theorem writeOrOverflow_overflows (ho : x < -(2 ^ 31) ∨ 2 ^ 31 ≤ x) :
    writeOrOverflow true rd x s = .next (doException .overflow .sync s) := by
  have overflows : overflows32 x = true := by
    simp only [overflows32, Bool.or_eq_true, decide_eq_true_eq]
    omega
  simp [writeOrOverflow, overflows, raise]

theorem completes_of_fits (hx : exec i s = writeOrOverflow true rd x s) (v : Word) (hv : v.toInt = x) :
    CompletesWriting32 i s rd v :=
  completes_w32s (hx.trans (writeOrOverflow_fits hv))

theorem traps_of_overflows (hx : exec i s = writeOrOverflow true rd x s) (ho : x < -(2 ^ 31) ∨ 2 ^ 31 ≤ x) :
    exec i s = .next (doException .overflow .sync s) :=
  hx.trans (writeOrOverflow_overflows ho)

theorem exec_addi (rt rs : Reg) (imm : BitVec 16) (s : State) :
    exec (.addi rt rs imm) s = writeOrOverflow true rt ((s.r32 rs).toInt + imm.toInt) s := by
  rw [← BitVec.toInt_signExtend_of_le (x := imm) (v := 32) (by omega)]
  rfl

end

/-! ## Signed and unsigned values at the operating width -/

section
variable {s : State} (r : Reg)

theorem signedW_ee (h : s.cpu = .ee) : s.signedW r = (s.ee64 r).toInt := by simp [State.signedW, h]
theorem signedW_iop (h : s.cpu = .iop) : s.signedW r = (s.iopReg r).toInt := by simp [State.signedW, h]
theorem unsignedW_ee (h : s.cpu = .ee) : s.unsignedW r = (s.ee64 r).toNat := by simp [State.unsignedW, h]
theorem unsignedW_iop (h : s.cpu = .iop) : s.unsignedW r = (s.iopReg r).toNat := by simp [State.unsignedW, h]

end

/-- The sign extension of the immediate keeps its value, so SLTI compares with the immediate (R282). -/
theorem setLess_signExtend {w : Nat} (hw : 16 ≤ w) (a : BitVec w) (imm : BitVec 16) :
    setLess w a (imm.signExtend w) = if a.toInt < imm.toInt then 1#w else 0#w := by
  rw [setLess, BitVec.toInt_signExtend_of_le hw]

/-! ## Shift amounts and arithmetic shifts -/

/-- Bits 4:0 of a register as a number (30_encoding.md R175). -/
theorem shiftAmount5_eq (s : State) (rs : Reg) : s.shiftAmount5 rs = (s.r32 rs).toNat % 32 := by
  simp [State.shiftAmount5, BitVec.extractLsb'_toNat]

/-- Bits 5:0 of a register as a number (30_encoding.md R175). -/
theorem shiftAmount6_eq (s : State) (rs : Reg) : s.shiftAmount6 rs = (s.ee64 rs).toNat % 64 := by
  simp [State.shiftAmount6, BitVec.extractLsb'_toNat]

/-- An arithmetic shift is a logical one of a sign extension that is wide enough for every bit it takes. -/
theorem sshiftRight_eq_signExtend {w : Nat} (v : Nat) (x : BitVec w) {n : Nat} (h : n + w ≤ v) :
    x.sshiftRight n = (x.signExtend v >>> n).setWidth w := by
  apply BitVec.eq_of_getElem_eq
  intro j hj
  have inside : n + j < v := by omega
  simp [BitVec.getElem_sshiftRight, BitVec.getElem_signExtend, inside]

/-! ## The statements -/

/-- Settles O9: each is `w32s` of its result. -/
theorem wordAdditionsComplete : Obligations.WordAdditionsComplete := fun _ _ _ _ _ _ _ _ =>
  ⟨⟨by simp [decode_special, decodeSpecial], completes_w32s rfl⟩,
    ⟨by simp [decode_special, decodeSpecial], completes_w32s rfl⟩,
    ⟨by simp [decode], completes_w32s rfl⟩,
    ⟨by simp [decode], completes_w32s rfl⟩⟩

/-- Settles O10: each is the shape `writeOrOverflow` of its exact result. -/
theorem trappingAdditionsCompleteOrTrap : Obligations.TrappingAdditionsCompleteOrTrap := fun s _ _ rs rt imm _ =>
  ⟨⟨by simp [decode_special, decodeSpecial], by simp [decode_special, decodeSpecial], by simp [decode]⟩,
    completes_of_fits rfl, traps_of_overflows rfl,
    completes_of_fits rfl, traps_of_overflows rfl,
    completes_of_fits (exec_addi rt rs imm s), traps_of_overflows (exec_addi rt rs imm s)⟩

/-- Settles O11: each is `wOp2` of its operation; a comparison takes the operands at the executing CPU's width. -/
theorem logicAndComparisonsComplete : Obligations.LogicAndComparisonsComplete := fun s _ _ rs rt _ =>
  ⟨⟨by simp [decode_special, decodeSpecial], completes_wOp2 rfl (fun _ => rfl) (fun _ => rfl)⟩,
    ⟨by simp [decode_special, decodeSpecial], completes_wOp2 rfl (fun _ => rfl) (fun _ => rfl)⟩,
    ⟨by simp [decode_special, decodeSpecial], completes_wOp2 rfl (fun _ => rfl) (fun _ => rfl)⟩,
    ⟨by simp [decode_special, decodeSpecial], completes_wOp2 rfl (fun _ => rfl) (fun _ => rfl)⟩,
    ⟨by simp [decode_special, decodeSpecial],
      completes_wOp2 rfl (fun h => by rw [signedW_ee rs h, signedW_ee rt h]; rfl)
        (fun h => by rw [signedW_iop rs h, signedW_iop rt h]; rfl)⟩,
    ⟨by simp [decode_special, decodeSpecial],
      completes_wOp2 rfl (fun h => by rw [unsignedW_ee rs h, unsignedW_ee rt h]; rfl)
        (fun h => by rw [unsignedW_iop rs h, unsignedW_iop rt h]; rfl)⟩⟩

/-- Settles O12: each is `wOp1` of its operation with the extended immediate. -/
theorem immediateLogicCompletes : Obligations.ImmediateLogicCompletes := fun s _ rs _ imm =>
  ⟨⟨by simp [decode],
      completes_wOp1 rfl (fun h => by rw [signedW_ee rs h]; exact setLess_signExtend (by omega) _ imm)
        (fun h => by rw [signedW_iop rs h]; exact setLess_signExtend (by omega) _ imm)⟩,
    ⟨by simp [decode], completes_wOp1 rfl (fun _ => rfl) (fun _ => rfl)⟩,
    ⟨by simp [decode], completes_wOp1 rfl (fun _ => rfl) (fun _ => rfl)⟩,
    ⟨by simp [decode], completes_wOp1 rfl (fun _ => rfl) (fun _ => rfl)⟩,
    ⟨by simp [decode], completes_wOp1 rfl (fun _ => rfl) (fun _ => rfl)⟩⟩

/-- Settles O13: each is `w32s` of the shifted value; an amount below 32 keeps an arithmetic shift inside the 64-bit
sign extension. -/
theorem wordShiftsComplete : Obligations.WordShiftsComplete := fun s _ _ rs _ sa _ => by
  have amount := shiftAmount5_eq s rs
  refine ⟨⟨by simp [decode_special, decodeSpecial], completes_w32s rfl⟩,
    ⟨by simp [decode_special, decodeSpecial], completes_w32s rfl⟩,
    ⟨by simp [decode_special, decodeSpecial], ?sra⟩,
    ⟨by simp [decode_special, decodeSpecial], amount ▸ completes_w32s rfl⟩,
    ⟨by simp [decode_special, decodeSpecial], amount ▸ completes_w32s rfl⟩,
    ⟨by simp [decode_special, decodeSpecial], ?srav⟩⟩
  case sra =>
    rw [← sshiftRight_eq_signExtend 64 _ (by omega)]
    exact completes_w32s rfl
  case srav =>
    rw [← amount, ← sshiftRight_eq_signExtend 64 _ (by omega)]
    exact completes_w32s rfl

end Sys2Proof.Machine
end

section
/-! SUPPORT. Products, quotients and the moves of HI and LO, and their statements (41_integer.md section 5). -/

namespace Sys2Proof.Machine

/-! ## Products (41_integer.md R263) -/

/-- The exact signed product fits 64 signed bits. -/
theorem toInt_ofInt_mul (a b : Word) : (BitVec.ofInt 64 (a.toInt * b.toInt)).toInt = a.toInt * b.toInt := by
  have lower := BitVec.le_toInt_mul_toInt (x := a) (y := b)
  have upper := BitVec.toInt_mul_toInt_le (x := a) (y := b)
  exact BitVec.toInt_ofInt_eq_self (by omega) (by omega) (by omega)

/-- The exact unsigned product fits 64 bits. -/
theorem toNat_ofNat_mul (a b : Word) : (BitVec.ofNat 64 (a.toNat * b.toNat)).toNat = a.toNat * b.toNat := by
  have product : a.toNat * b.toNat < 2 ^ 32 * 2 ^ 32 := Nat.mul_lt_mul'' a.isLt b.isLt
  exact (BitVec.toNat_ofNat _ _).trans (Nat.mod_eq_of_lt product)

section
variable {s : State} {rd : Reg} {p : Dword}

theorem writeProduct_ee (h : s.cpu = .ee) :
    Reg32Written (s.withHiLo (p.extractLsb' 32 32) (p.extractLsb' 0 32)) rd (p.extractLsb' 0 32)
      (writeProduct rd p s) := by
  simp only [writeProduct, h, setHiLo_eq]
  exact w32s_written _ _ _

theorem writeProduct_iop (h : s.cpu = .iop) :
    writeProduct rd p s = s.withHiLo (p.extractLsb' 32 32) (p.extractLsb' 0 32) := by
  simp only [writeProduct, h, setHiLo_eq]

end

/-! ## Quotients and remainders (41_integer.md R264) -/

section
variable {a b : Word}

theorem divResult_zero (hb : b = 0) :
    divResult a b = (if a.toInt < 0 then 0x00000001#32 else 0xFFFFFFFF#32, a) := if_pos hb

theorem divResult_overflow (h : a = 0x80000000#32 ∧ b = 0xFFFFFFFF#32) :
    divResult a b = (0x80000000#32, 0x00000000#32) := by
  obtain ⟨rfl, rfl⟩ := h
  rfl

/-- Away from the corners the quotient and the remainder fit 32 signed bits. -/
theorem divResult_ordinary (hb : b ≠ 0) (ho : ¬ (a = 0x80000000#32 ∧ b = 0xFFFFFFFF#32)) :
    (divResult a b).1.toInt = a.toInt.tdiv b.toInt ∧
      (divResult a b).2.toInt = a.toInt - a.toInt.tdiv b.toInt * b.toInt := by
  have quotient : (a.sdiv b).toInt = a.toInt.tdiv b.toInt :=
    BitVec.toInt_sdiv_of_ne_or_ne a b (not_and_or.1 ho)
  have remainder : (a.srem b).toInt = a.toInt - a.toInt.tdiv b.toInt * b.toInt := by
    rw [BitVec.toInt_srem, Int.tmod_def, Int.mul_comm]
  simp only [divResult, hb, ho, if_false]
  exact ⟨by rw [← quotient, BitVec.ofInt_toInt], by rw [← remainder, BitVec.ofInt_toInt]⟩

theorem divuResult_zero (hb : b = 0) : divuResult a b = (0xFFFFFFFF#32, a) := if_pos hb

theorem divuResult_ordinary (hb : b ≠ 0) :
    (divuResult a b).1.toNat = a.toNat / b.toNat ∧
      (divuResult a b).2.toNat = a.toNat - a.toNat / b.toNat * b.toNat := by
  have quotient : a.toNat / b.toNat < 2 ^ 32 := (Nat.div_le_self _ _).trans_lt a.isLt
  have remainder : a.toNat - a.toNat / b.toNat * b.toNat < 2 ^ 32 := (Nat.sub_le _ _).trans_lt a.isLt
  simp only [divuResult, hb, if_false, BitVec.toNat_ofNat, Nat.mod_eq_of_lt quotient, Nat.mod_eq_of_lt remainder]
  exact ⟨trivial, trivial⟩

end

/-! ## Moves -/

section
variable {i : Instr} {s : State} {rd : Reg} {e : Dword} {p : Word}

/-- A move into a register at the executing CPU's width. -/
theorem completes_move (he : s.cpu = .ee → exec i s = .next (s.setEe64 rd e))
    (hp : s.cpu = .iop → exec i s = .next (s.setIopReg rd p)) : CompletesWriting i s rd e p := by
  unfold CompletesWriting RegWritten
  cases hc : s.cpu
  · exact ⟨_, he hc, setEe64_written s rd e⟩
  · exact ⟨_, hp hc, setIopReg_written s rd p⟩

theorem execMfhi_ee (h : s.cpu = .ee) : execMfhi rd s = .next (s.setEe64 rd (s.ee.hi.setWidth 64)) := by
  simp [execMfhi, h]
theorem execMfhi_iop (h : s.cpu = .iop) : execMfhi rd s = .next (s.setIopReg rd s.iop.hi) := by simp [execMfhi, h]
theorem execMflo_ee (h : s.cpu = .ee) : execMflo rd s = .next (s.setEe64 rd (s.ee.lo.setWidth 64)) := by
  simp [execMflo, h]
theorem execMflo_iop (h : s.cpu = .iop) : execMflo rd s = .next (s.setIopReg rd s.iop.lo) := by simp [execMflo, h]

theorem execMthi_ee (h : s.cpu = .ee) : execMthi rd s = .next (s.setEeHi (s.ee64 rd)) := by simp [execMthi, h]
theorem execMthi_iop (h : s.cpu = .iop) : execMthi rd s = .next (s.setIopHi (s.iopReg rd)) := by simp [execMthi, h]
theorem execMtlo_ee (h : s.cpu = .ee) : execMtlo rd s = .next (s.setEeLo (s.ee64 rd)) := by simp [execMtlo, h]
theorem execMtlo_iop (h : s.cpu = .iop) : execMtlo rd s = .next (s.setIopLo (s.iopReg rd)) := by simp [execMtlo, h]

end

/-! ## The statements -/

/-- Settles O14: `writeProduct` of a product that fits its 64 bits. -/
theorem multipliesComplete : Obligations.MultipliesComplete := by
  intro s c rd rs rt x
  refine ⟨⟨by simp [decode_special, decodeSpecial], by simp [decode_special, decodeSpecial]⟩,
    ⟨_, toInt_ofInt_mul _ _, _, rfl, ?signed⟩, ⟨_, toNat_ofNat_mul _ _, _, rfl, ?unsigned⟩⟩
  all_goals
    cases h : s.cpu
    · exact writeProduct_ee h
    · exact writeProduct_iop h

/-- Settles O15: each clause is the lemma about `divResult` or `divuResult` of its case. -/
theorem dividesComplete : Obligations.DividesComplete := by
  intro s c rs rt x y
  refine ⟨⟨by simp [decode_special, decodeSpecial], by simp [decode_special, decodeSpecial]⟩,
    ⟨_, _, congrArg Host.Outcome.next (setHiLo_eq s _ _), fun hb => ?zero, fun ho => ?overflow,
      fun ⟨hb, ho⟩ => divResult_ordinary hb ho⟩,
    ⟨_, _, congrArg Host.Outcome.next (setHiLo_eq s _ _), fun hb => ?uzero, divuResult_ordinary⟩⟩
  case zero => simp [divResult_zero hb]
  case overflow => simp [divResult_overflow ho]
  case uzero => simp [divuResult_zero hb]

/-- Settles O16: the moves on each CPU; a write of HI or LO is the record update itself. -/
theorem hiLoMovesComplete : Obligations.HiLoMovesComplete := by
  intro s c r x y z
  refine ⟨⟨by simp [decode_special, decodeSpecial], completes_move execMfhi_ee execMfhi_iop⟩,
    ⟨by simp [decode_special, decodeSpecial], completes_move execMflo_ee execMflo_iop⟩,
    ⟨by simp [decode_special, decodeSpecial], ?mthi⟩, ⟨by simp [decode_special, decodeSpecial], ?mtlo⟩⟩
  case mthi =>
    cases h : s.cpu
    · exact execMthi_ee h
    · exact execMthi_iop h
  case mtlo =>
    cases h : s.cpu
    · exact execMtlo_ee h
    · exact execMtlo_iop h

end Sys2Proof.Machine
end

section
/-! SUPPORT. The EE's doubleword, conditional-move and multimedia instructions, and their statements (41_integer.md
sections 6 and 7). -/

namespace Sys2Proof.Machine

/-! ## The shapes -/

section
variable {i : Instr} {s : State} {rd rs rt : Reg}

theorem completes_ee64Result {v : Dword} (hx : exec i s = ee64Result i rd v s) : CompletesWritingEe64 i s rd v :=
  ⟨fun hc => ⟨_, hx.trans (eeOnly_ee hc), setEe64_written s rd v⟩, fun hc => hx.trans (eeOnly_iop hc)⟩

theorem completes_ee128Result {v : Quad} (hx : exec i s = ee128Result i rd v s) : CompletesWritingEe128 i s rd v :=
  ⟨fun hc => ⟨_, hx.trans (eeOnly_ee hc), setEeReg_written s rd v⟩, fun hc => hx.trans (eeOnly_iop hc)⟩

/-! ## Conditional moves -/

theorem execMovz_moves (h : s.ee64 rt = 0) :
    execMovz rd rs rt s = ee64Result (.movz rd rs rt) rd (s.ee64 rs) s := by simp only [execMovz, if_pos h, ee64Result]
theorem execMovz_keeps (h : s.ee64 rt ≠ 0) : execMovz rd rs rt s = eeOnly (.movz rd rs rt) s (.next s) := by
  simp only [execMovz, if_neg h]
theorem execMovn_moves (h : s.ee64 rt ≠ 0) :
    execMovn rd rs rt s = ee64Result (.movn rd rs rt) rd (s.ee64 rs) s := by simp only [execMovn, if_neg h, ee64Result]
theorem execMovn_keeps (h : s.ee64 rt = 0) : execMovn rd rs rt s = eeOnly (.movn rd rs rt) s (.next s) := by
  simp only [execMovn, if_pos h]

end

/-! ## Lanes (41_integer.md R330) -/

theorem extractLsb'_append_succ {n : Nat} (hi : BitVec n) (lo : Word) (k : Nat) :
    (hi ++ lo).extractLsb' (32 * (k + 1)) 32 = hi.extractLsb' (32 * k) 32 := by
  rw [BitVec.extractLsb'_append_eq_of_le (by omega)]
  congr 1

theorem wordLane_mapLanes (f : Word → Word → Word) (a b : Quad) :
    ∀ i, i < 4 → wordLane (mapLanes f a b) i = f (wordLane a i) (wordLane b i)
  | 0, _ => BitVec.extractLsb'_append_eq_right
  | 1, _ => (extractLsb'_append_succ _ _ 0).trans BitVec.extractLsb'_append_eq_right
  | 2, _ => (extractLsb'_append_succ _ _ 1).trans <| (extractLsb'_append_succ _ _ 0).trans
      BitVec.extractLsb'_append_eq_right
  | 3, _ => (extractLsb'_append_succ _ _ 2).trans <| (extractLsb'_append_succ _ _ 1).trans <|
      (extractLsb'_append_succ _ _ 0).trans BitVec.extractLsb'_eq_self

theorem dwordLane_append (hi lo : Dword) : dwordLane (hi ++ lo) 0 = lo ∧ dwordLane (hi ++ lo) 1 = hi :=
  ⟨BitVec.extractLsb'_append_eq_right, BitVec.extractLsb'_append_eq_left⟩

/-! ## The statements -/

/-- Settles O17: the additions are `ee64Result`; so is a conditional move whose test holds, and one whose test fails
keeps the state. -/
theorem doublewordAdditionsAndMovesComplete : Obligations.DoublewordAdditionsAndMovesComplete := fun _ _ _ _ _ _ =>
  ⟨⟨by simp [decode_special, decodeSpecial, eeEntry], completes_ee64Result rfl⟩,
    ⟨by simp [decode_special, decodeSpecial, eeEntry], completes_ee64Result rfl⟩,
    ⟨by simp [decode, eeEntry], completes_ee64Result rfl⟩,
    ⟨by simp [decode_special, decodeSpecial, eeEntry], fun h => completes_ee64Result (execMovz_moves h),
      fun hc h => (execMovz_keeps h).trans (eeOnly_ee hc), eeOnly_iop⟩,
    ⟨by simp [decode_special, decodeSpecial, eeEntry], fun h => completes_ee64Result (execMovn_moves h),
      fun hc h => (execMovn_keeps h).trans (eeOnly_ee hc), eeOnly_iop⟩⟩

/-- Settles O18: each is `ee64Result` of the shifted value; an amount below 64 keeps an arithmetic shift inside the
128-bit sign extension. -/
theorem doublewordShiftsComplete : Obligations.DoublewordShiftsComplete := fun s _ rs _ sa _ => by
  have amount := shiftAmount6_eq s rs
  refine ⟨⟨by simp [decode_special, decodeSpecial, eeEntry], completes_ee64Result rfl⟩,
    ⟨by simp [decode_special, decodeSpecial, eeEntry], completes_ee64Result rfl⟩,
    ⟨by simp [decode_special, decodeSpecial, eeEntry], ?dsra⟩,
    ⟨by simp [decode_special, decodeSpecial, eeEntry], completes_ee64Result rfl⟩,
    ⟨by simp [decode_special, decodeSpecial, eeEntry], completes_ee64Result rfl⟩,
    ⟨by simp [decode_special, decodeSpecial, eeEntry], ?dsra32⟩,
    ⟨by simp [decode_special, decodeSpecial, eeEntry], amount ▸ completes_ee64Result rfl⟩,
    ⟨by simp [decode_special, decodeSpecial, eeEntry], amount ▸ completes_ee64Result rfl⟩,
    ⟨by simp [decode_special, decodeSpecial, eeEntry], ?dsrav⟩⟩
  case dsra | dsra32 =>
    rw [← sshiftRight_eq_signExtend 128 _ (by omega)]
    exact completes_ee64Result rfl
  case dsrav =>
    rw [← amount, ← sshiftRight_eq_signExtend 128 _ (by omega)]
    exact completes_ee64Result rfl

/-- Settles O19: each is `ee128Result`, read lane by lane where the statement does. -/
theorem multimediaCompletes : Obligations.MultimediaCompletes := fun _ _ _ _ =>
  ⟨⟨by simp [decode_mmi, decodeMmi, decodeMmiEe], _, completes_ee128Result rfl, wordLane_mapLanes _ _ _⟩,
    ⟨by simp [decode_mmi, decodeMmi, decodeMmiEe], _, completes_ee128Result rfl, wordLane_mapLanes _ _ _⟩,
    ⟨by simp [decode_mmi, decodeMmi, decodeMmiEe], completes_ee128Result rfl⟩,
    ⟨by simp [decode_mmi, decodeMmi, decodeMmiEe], completes_ee128Result rfl⟩,
    ⟨by simp [decode_mmi, decodeMmi, decodeMmiEe], completes_ee128Result rfl⟩,
    ⟨by simp [decode_mmi, decodeMmi, decodeMmiEe], completes_ee128Result rfl⟩,
    ⟨by simp [decode_mmi, decodeMmi, decodeMmiEe], _, completes_ee128Result rfl, dwordLane_append _ _⟩,
    ⟨by simp [decode_mmi, decodeMmi, decodeMmiEe], _, completes_ee128Result rfl, dwordLane_append _ _⟩⟩

end Sys2Proof.Machine
end

section
/-! SUPPORT. Loads, stores, SYNC, CACHE and the TLB operations: what a load makes of a read, the bytes a store takes,
and their statements (42_load_store.md; 43_system.md R389 to R392). -/

namespace Sys2Proof.Machine

/-! ## Loads -/

section
variable {i : Instr} {s : State} {va : Word} {n : Nat} {write : Quad → State → State}
  {written : Quad → State → State → Prop}

/-- A load keeps a fault of its read; after a value it writes, on the CPU that read (42_load_store.md R351). -/
theorem loadOutcome_of_useLoaded (hx : exec i s = useLoaded (memRead s va n) fun v u => .next (write v u))
    (hw : ∀ v u, u.cpu = s.cpu → written v u (write v u)) : LoadOutcome i s va n written :=
  ⟨fun v u hr => ⟨write v u, by rw [hx, hr, useLoaded], hw v u (readEffect_cpu (memRead_effect hr))⟩,
    fun f hr => by rw [hx, hr, useLoaded]⟩

theorem eeLoadOutcome_of_useLoaded
    (hx : exec i s = eeOnly i s (useLoaded (memRead s va n) fun v u => .next (write v u)))
    (hw : ∀ v u, u.cpu = .ee → written v u (write v u)) : EeLoadOutcome i s va n written :=
  ⟨fun hc => loadOutcome_of_useLoaded (hx.trans (eeOnly_ee hc)) fun v u hu => hw v u (hu.trans hc),
    fun hc => hx.trans (eeOnly_iop hc)⟩

end

/-- On the EE, `wW` with a zero-extended value writes bits 63:0. -/
theorem wZext_written_ee {n : Nat} {s : State} (hc : s.cpu = .ee) (rd : Reg) (v : BitVec n) :
    EeRegWritten s rd ((s.eeReg rd).extractLsb' 64 64 ++ v.setWidth 64) (s.wZext rd v) := by
  simpa only [RegWritten, hc] using wZext_written s rd v

/-- Settles O26: each load is `useLoaded` of its read followed by one register write. -/
theorem loadsWriteWhatTheyRead : Obligations.LoadsWriteWhatTheyRead := fun _ _ _ _ _ =>
  ⟨⟨by simp [decode], loadOutcome_of_useLoaded rfl fun _ u _ => wSext_written u _ _⟩,
    ⟨by simp [decode], loadOutcome_of_useLoaded rfl fun _ u _ => wZext_written u _ _⟩,
    ⟨by simp [decode], loadOutcome_of_useLoaded rfl fun _ u _ => wSext_written u _ _⟩,
    ⟨by simp [decode], loadOutcome_of_useLoaded rfl fun _ u _ => wZext_written u _ _⟩,
    ⟨by simp [decode], loadOutcome_of_useLoaded rfl fun _ u _ => w32s_written u _ _⟩,
    ⟨by simp [decode, eeEntry], eeLoadOutcome_of_useLoaded rfl fun _ _ hc => wZext_written_ee hc _ _⟩,
    ⟨by simp [decode, eeEntry], eeLoadOutcome_of_useLoaded rfl fun _ u _ => setEeReg_written u _ _⟩,
    ⟨by simp [decode, eeEntry], eeLoadOutcome_of_useLoaded rfl fun _ u _ => setEe64_written u _ _⟩⟩

/-! ## Stores -/

section
variable {s : State} {rt : Reg}

/-- The low bytes of rt up to a word are those of `x[rt][31:0]`, on both CPUs. -/
theorem storeData_eq_r32 {n : Nat} (hn : n ≤ 4) :
    s.storeData rt n = ((s.r32 rt).setWidth (8 * n)).setWidth 128 := by
  unfold State.storeData State.r32 truncBytes
  have hw : 8 * n ≤ 32 := by omega
  cases s.cpu
  · exact congrArg (BitVec.setWidth 128) (BitVec.setWidth_setWidth_of_le _ hw).symm
  · exact congrArg (BitVec.setWidth 128) (BitVec.setWidth_setWidth_of_le _ (hw.trans (by decide)))

theorem storeData_word : s.storeData rt 4 = (s.r32 rt).setWidth 128 := by
  rw [storeData_eq_r32 le_rfl, BitVec.setWidth_eq]

theorem storeData_dword (hc : s.cpu = .ee) : s.storeData rt 8 = (s.ee64 rt).setWidth 128 := by
  simp only [State.storeData, hc]; rfl

theorem storeData_quad (hc : s.cpu = .ee) : s.storeData rt 16 = s.eeReg rt := by
  simp only [State.storeData, hc, truncBytes, BitVec.setWidth_eq]

end

/-- Settles O27: each store is `memWrite` of `storeData`, whose bytes are the low bytes of rt. -/
theorem storesWriteTheLowBytes : Obligations.StoresWriteTheLowBytes := fun s _ _ _ _ =>
  ⟨⟨by simp [decode], congrArg (memWrite s _ 1) (storeData_eq_r32 (by decide))⟩,
    ⟨by simp [decode], congrArg (memWrite s _ 2) (storeData_eq_r32 (by decide))⟩,
    ⟨by simp [decode], congrArg (memWrite s _ 4) storeData_word⟩,
    ⟨by simp [decode, eeEntry],
      fun hc => (eeOnly_ee hc).trans (congrArg (memWrite s _ 16) (storeData_quad hc)), eeOnly_iop⟩,
    ⟨by simp [decode, eeEntry],
      fun hc => (eeOnly_ee hc).trans (congrArg (memWrite s _ 8) (storeData_dword hc)), eeOnly_iop⟩⟩

/-! ## SYNC, CACHE and the TLB operations -/

/-- An instruction of one CPU, on that CPU. -/
theorem onlyOn_same {c : Cpu} {i : Instr} {s : State} {o : Out} (h : s.cpu = c) : onlyOn c i s o = o := if_pos h

/-- An instruction of one CPU is refused on the other (30_encoding.md R186, R191). -/
theorem onlyOn_other {c : Cpu} {i : Instr} {s : State} {o : Out} (h : s.cpu ≠ c) :
    onlyOn c i s o = .refused (.notAdmitted (encode i) s.pc) := if_neg h

/-- Settles O34: SYNC and CACHE are `eeOnly`, and the TLB operations `onlyOn` the EE, of the state itself. -/
theorem barriersAndTlbOperationsChangeNothing : Obligations.BarriersAndTlbOperationsChangeNothing := by
  intro s stype op x y z base off
  refine ⟨by simp [decode_special, decodeSpecial, eeEntry], by simp [decode, eeEntry], ?tlbr, ?tlbwi, ?tlbwr, ?tlbp,
    fun hc => ?ee, fun hc => ?iop⟩
  case tlbr | tlbwi | tlbwr | tlbp => simp [decode_cop0, decodeCop0_coEe, decodeCoEe]
  case ee =>
    exact ⟨eeOnly_ee hc, eeOnly_ee hc, onlyOn_same hc, onlyOn_same hc, onlyOn_same hc, onlyOn_same hc⟩
  case iop =>
    have hne : s.cpu ≠ .ee := by simp [hc]
    exact ⟨eeOnly_iop hc, eeOnly_iop hc, onlyOn_other hne, onlyOn_other hne, onlyOn_other hne, onlyOn_other hne⟩

end Sys2Proof.Machine
end

section
/-! SUPPORT. System instructions: the COP0 registers read and written, and the statements about SYSCALL, BREAK, MFC0,
MTC0, EI and DI (43_system.md R380 to R384, R387, R388). -/

namespace Sys2Proof.Machine

/-! ## Bits of a changed word -/

theorem getLsbD_setBit (v : Word) (i : Nat) (b : Bool) (j : Nat) (hj : j < 32) :
    (setBit v i b).getLsbD j = if j = i then b else v.getLsbD j := by
  simpa only [BitVec.getLsbD_eq_getElem hj] using getElem_setBit v i b j hj

theorem getLsbD_mergeBits (mask old new : Word) (j : Nat) (hj : j < 32) :
    (mergeBits mask old new).getLsbD j = if mask.getLsbD j then new.getLsbD j else old.getLsbD j := by
  simpa only [BitVec.getLsbD_eq_getElem hj] using getElem_mergeBits mask old new j hj

/-! ## Cause with the live lines (10_state.md R55, R59) -/

theorem getLsbD_causeLive_ee {s : State} (hc : s.cpu = .ee) (j : Nat) (hj : j < 32) :
    s.causeLive.getLsbD j =
      if j = 10 then s.eeInt0 else if j = 11 then eeDmacLine s.eeDmac.dStat else s.ee.ctl.cause.getLsbD j := by
  simp only [State.causeLive, hc, getLsbD_setBit _ _ _ j hj, State.eeInt1_eq_line]
  by_cases h : j = 10
  · subst h; rfl
  · simp only [if_neg h]

theorem getLsbD_causeLive_iop {s : State} (hc : s.cpu = .iop) (j : Nat) (hj : j < 32) :
    s.causeLive.getLsbD j = if j = 10 then s.iopLine else s.iop.ctl.cause.getLsbD j := by
  simp only [State.causeLive, hc, getLsbD_setBit _ _ _ j hj]

/-! ## Reads of COP0 registers (R382) -/

section
variable {s : State}

theorem cop0Read_status : cop0Read s 12 = (s.ctl.status, s) := by cases hc : s.cpu <;> simp [cop0Read, hc]
theorem cop0Read_cause : cop0Read s 13 = (s.causeLive, s) := by cases hc : s.cpu <;> simp [cop0Read, hc]
theorem cop0Read_epc : cop0Read s 14 = (s.ctl.epc, s) := by cases hc : s.cpu <;> simp [cop0Read, hc]

theorem cop0Read_count (hc : s.cpu = .ee) : cop0Read s 9 = (s.ee.count, s) := by simp [cop0Read, hc]
theorem cop0Read_compare (hc : s.cpu = .ee) : cop0Read s 11 = (s.ee.compare, s) := by simp [cop0Read, hc]
theorem cop0Read_errorEpc (hc : s.cpu = .ee) : cop0Read s 30 = (s.ee.errorEpc, s) := by simp [cop0Read, hc]
theorem cop0Read_prid_ee (hc : s.cpu = .ee) : cop0Read s 15 = (Config.eePrid, s) := by simp [cop0Read, hc]
theorem cop0Read_prid_iop (hc : s.cpu = .iop) : cop0Read s 15 = (Config.iopPrid, s) := by simp [cop0Read, hc]

/-- A register outside the list is a draw: each arm of the read that names a register names one of the list. -/
theorem cop0Read_unmodelled_ee (hc : s.cpu = .ee) {n : Reg} (hn : n.val ∉ [9, 11, 12, 13, 14, 15, 30]) :
    cop0Read s n = (s.nextDraw.setWidth 32, s.afterDraw) := by
  unfold cop0Read
  split <;> simp_all

theorem cop0Read_unmodelled_iop (hc : s.cpu = .iop) {n : Reg} (hn : n.val ∉ [12, 13, 14, 15]) :
    cop0Read s n = (s.nextDraw.setWidth 32, s.afterDraw) := by
  unfold cop0Read
  split <;> simp_all

/-- MFC0 writes into rt, with `w32s`, the value its register gives. -/
theorem exec_mfc0 {rt n : Reg} {v : Word} {u : State} (h : cop0Read s n = (v, u)) :
    exec (.mfc0 rt n) s = .next (u.w32s rt v) := by
  show Host.Outcome.next ((cop0Read s n).2.w32s rt (cop0Read s n).1) = _
  rw [h]

end

/-! ## Writes of COP0 registers (R383, R384) -/

section
variable {s : State} {v : Word}

theorem cop0Write_status : cop0Write s 12 v = s.setCtl { s.ctl with status := v } := by
  cases hc : s.cpu <;> simp [cop0Write, hc, State.setStatus]
theorem cop0Write_epc : cop0Write s 14 v = s.setCtl { s.ctl with epc := v } := by
  cases hc : s.cpu <;> simp [cop0Write, hc]

theorem cop0Write_count (hc : s.cpu = .ee) : cop0Write s 9 v = { s with ee := { s.ee with count := v } } := by
  simp [cop0Write, hc]
theorem cop0Write_compare (hc : s.cpu = .ee) : cop0Write s 11 v = { s with ee :=
    { s.ee with compare := v, ctl := { s.ee.ctl with cause := setBit s.ee.ctl.cause 15 false } } } := by
  simp [cop0Write, hc]
theorem cop0Write_errorEpc (hc : s.cpu = .ee) :
    cop0Write s 30 v = { s with ee := { s.ee with errorEpc := v } } := by
  simp [cop0Write, hc]

theorem cop0Write_cause_iop (hc : s.cpu = .iop) :
    cop0Write s 13 v = s.setCtl { s.ctl with cause := mergeBits 0x00000300#32 s.ctl.cause v } := by
  simp [cop0Write, writeCause, hc]

/-- On the EE, Cause, PRId and the unmodelled registers take no write. -/
theorem cop0Write_ignored_ee (hc : s.cpu = .ee) {n : Reg} (hn : n.val ∉ [9, 11, 12, 14, 30]) :
    cop0Write s n v = s := by
  unfold cop0Write
  split <;> simp_all [writeCause]

/-- On the IOP, PRId and the unmodelled registers take no write. -/
theorem cop0Write_ignored_iop (hc : s.cpu = .iop) {n : Reg} (hn : n.val ∉ [12, 13, 14]) : cop0Write s n v = s := by
  unfold cop0Write
  split <;> simp_all

/-- MTC0 writes rt's word to its register. -/
theorem exec_mtc0 {rt n : Reg} {t : State} (h : cop0Write s n (s.r32 rt) = t) : exec (.mtc0 rt n) s = .next t :=
  congrArg Host.Outcome.next h

theorem completes_setCtl {i : Instr} {c : CpuCtl} (hx : exec i s = .next (s.setCtl c)) : CompletesWritingCtl i s c :=
  ⟨_, hx, setCtl_written s c⟩

end

/-- A write of the IOP's Cause takes the two software interrupt bits (R384). -/
theorem getLsbD_mergeBits_software (old new : Word) (j : Nat) (hj : j < 32) :
    (mergeBits 0x00000300#32 old new).getLsbD j = if j = 8 ∨ j = 9 then new.getLsbD j else old.getLsbD j := by
  have mask : ∀ k < 32, (0x00000300#32).getLsbD k = decide (k = 8 ∨ k = 9) := by decide
  simp only [getLsbD_mergeBits _ _ _ j hj, mask j hj, decide_eq_true_eq]

/-! ## The statements -/

/-- Settles O37: each clause is the read of its register, written with `w32s`; an unmodelled one writes after its
draw. -/
theorem mfc0ReadsTheRegister : Obligations.Mfc0ReadsTheRegister := by
  intro s c rt rd x f
  refine ⟨by simp [decode_cop0, decodeCop0], completes_w32s (exec_mfc0 cop0Read_status),
    completes_w32s (exec_mfc0 cop0Read_epc), ⟨_, completes_w32s (exec_mfc0 cop0Read_cause), ?cause⟩,
    fun hc => ⟨completes_w32s (exec_mfc0 (cop0Read_count hc)), completes_w32s (exec_mfc0 (cop0Read_compare hc)),
      completes_w32s (exec_mfc0 (cop0Read_errorEpc hc)), completes_w32s (exec_mfc0 (cop0Read_prid_ee hc)),
      fun hn => ⟨_, exec_mfc0 (cop0Read_unmodelled_ee hc hn), w32s_written s.afterDraw rt _⟩⟩,
    fun hc => ⟨completes_w32s (exec_mfc0 (cop0Read_prid_iop hc)),
      fun hn => ⟨_, exec_mfc0 (cop0Read_unmodelled_iop hc hn), w32s_written s.afterDraw rt _⟩⟩⟩
  case cause =>
    cases hc : s.cpu
    · exact getLsbD_causeLive_ee hc
    · exact getLsbD_causeLive_iop hc

/-- Settles O38: each clause of MTC0 is the write of its register; EI and DI are `onlyOn` the EE, of one bit of
Status. -/
theorem cop0WritesComplete : Obligations.Cop0WritesComplete := by
  intro s c rt rd x y z f
  refine ⟨by simp [decode_cop0, decodeCop0], completes_setCtl (exec_mtc0 cop0Write_status),
    completes_setCtl (exec_mtc0 cop0Write_epc), fun hc => ?ee, fun hc => ?iop, ?ei, ?di, fun hc => ?enable,
    fun hc => ?refused⟩
  case ee =>
    exact ⟨exec_mtc0 (cop0Write_errorEpc hc), exec_mtc0 (cop0Write_count hc),
      ⟨_, exec_mtc0 (cop0Write_compare hc), getLsbD_setBit _ 15 false⟩,
      fun hn => exec_mtc0 (cop0Write_ignored_ee hc hn)⟩
  case iop =>
    have stored : s.ctl.cause = s.iop.ctl.cause := by simp only [State.ctl, hc]
    exact ⟨⟨_, completes_setCtl (exec_mtc0 (cop0Write_cause_iop hc)), stored ▸ getLsbD_mergeBits_software _ _⟩,
      fun hn => exec_mtc0 (cop0Write_ignored_iop hc hn)⟩
  case ei | di => simp [decode_cop0, decodeCop0_coEe, decodeCoEe]
  case enable =>
    exact ⟨⟨_, completes_setCtl (onlyOn_same hc), getLsbD_setBit _ 16 true⟩,
      ⟨_, completes_setCtl (onlyOn_same hc), getLsbD_setBit _ 16 false⟩⟩
  case refused =>
    have hne : s.cpu ≠ .ee := by simp [hc]
    exact ⟨onlyOn_other hne, onlyOn_other hne⟩

/-- Settles O35: the meaning of each is `raise` of its exception, which reads no code field. -/
theorem syscallAndBreakRaise : Obligations.SyscallAndBreakRaise := fun _ _ _ =>
  ⟨⟨by simp [decode_special, decodeSpecial], rfl⟩, ⟨by simp [decode_special, decodeSpecial], rfl⟩⟩

end Sys2Proof.Machine
end

section
/-! SUPPORT. Exception entry and the interrupt check: what entry leaves in each register of the control state, when the
check takes the interrupt, and their statements (60_exceptions.md R412 to R415, R420). -/

namespace Sys2Proof.Machine

/-! ## The vector (R415) -/

theorem excVector_ee_interrupt (status : Word) :
    excVector .ee status .interrupt = if status.getLsbD 22 then 0xBFC00400#32 else 0x80000200#32 := by
  cases h : status.getLsbD 22 <;> simp only [excVector, h] <;> rfl

/-- Every other exception of the EE has the common vector. -/
theorem excVector_ee_common (status : Word) {e : Exc} (he : e ≠ .interrupt) :
    excVector .ee status e = if status.getLsbD 22 then 0xBFC00380#32 else 0x80000180#32 := by
  cases h : status.getLsbD 22 <;> simp only [excVector, h] <;> rfl

theorem excVector_iop (status : Word) (e : Exc) :
    excVector .iop status e = if status.getLsbD 22 then 0xBFC00180#32 else 0x80000080#32 := by
  cases h : status.getLsbD 22 <;> simp only [excVector, h] <;> rfl

/-! ## Status and Cause at entry (R412) -/

theorem getLsbD_statusAtEntry_ee (status : Word) (j : Nat) (hj : j < 32) :
    (statusAtEntry .ee status).getLsbD j = if j = 1 then true else status.getLsbD j :=
  getLsbD_setBit status 1 true j hj

/-- The push moves bits 3:0 to 5:2 and clears bits 1:0. -/
theorem getLsbD_statusAtEntry_iop (status : Word) (j : Nat) (hj : j < 32) :
    (statusAtEntry .iop status).getLsbD j =
      if j < 2 then false else if j < 6 then status.getLsbD (j - 2) else status.getLsbD j := by
  have mask : ∀ k < 32, (0x0000003F#32).getLsbD k = decide (k < 6) := by decide
  have kept : ∀ k < 32, (0x0000000F#32).getLsbD k = decide (k < 4) := by decide
  simp only [statusAtEntry, getLsbD_mergeBits _ _ _ j hj, mask j hj, decide_eq_true_eq, BitVec.getLsbD_shiftLeft,
    BitVec.getLsbD_and]
  by_cases h2 : j < 2
  · simp [h2, show j < 6 by omega]
  · by_cases h6 : j < 6
    · simp [h2, h6, hj, kept (j - 2) (by omega), show j - 2 < 4 by omega]
    · simp [h2, h6]

/-- BD is the delay-slot latch, ExcCode stands in bits 6:2, and the other bits are kept. -/
theorem getLsbD_causeAtEntry (cause : Word) (slot : Bool) (e : Exc) (j : Nat) (hj : j < 32) :
    (causeAtEntry cause slot e).getLsbD j =
      if j = 31 then slot else if 2 ≤ j ∧ j ≤ 6 then (excCode e).toNat.testBit (j - 2) else cause.getLsbD j := by
  have mask : ∀ k < 32, (0x0000007C#32).getLsbD k = decide (2 ≤ k ∧ k ≤ 6) := by decide
  simp only [causeAtEntry, getLsbD_mergeBits _ _ _ j hj, mask j hj, decide_eq_true_eq, getLsbD_setBit _ _ _ j hj,
    BitVec.getLsbD_shiftLeft, BitVec.getLsbD_setWidth, BitVec.testBit_toNat]
  by_cases hc : 2 ≤ j ∧ j ≤ 6
  · simp [hc, hj, show ¬ j = 31 by omega, show ¬ j < 2 by omega, show j - 2 < 32 by omega]
  · simp [hc]

/-! ## The state after entry -/

section
variable (e : Exc) (p : EntryPoint) (s : State)

/-- Entry is one write of the control state. -/
theorem doException_written : CtlWritten s (doException e p s).ctl (doException e p s) := by
  rw [show (doException e p s).ctl = _ from setCtl_ctl s _]
  exact setCtl_written s _

@[simp] theorem doException_cpu : (doException e p s).cpu = s.cpu := rfl

@[simp] theorem doException_epc :
    (doException e p s).ctl.epc = if s.ctl.inDelaySlot then s.pc - 4 else s.pc := by simp [doException, State.pc]

@[simp] theorem doException_cause :
    (doException e p s).ctl.cause = causeAtEntry s.ctl.cause s.ctl.inDelaySlot e := by simp [doException]

@[simp] theorem doException_status : (doException e p s).ctl.status = statusAtEntry s.cpu s.ctl.status := by
  simp [doException]

@[simp] theorem doException_branchPending : (doException e p s).ctl.branchPending = false := by simp [doException]

@[simp] theorem doException_inDelaySlot : (doException e p s).ctl.inDelaySlot = false := by simp [doException]

@[simp] theorem doException_branchTarget : (doException e p s).ctl.branchTarget = s.ctl.branchTarget := by
  simp [doException]

/-- A synchronous entry leaves pc one instruction before the vector, for step 5 to move it there (R411). -/
theorem doException_sync_pc : (doException e .sync s).pc = excVector s.cpu s.ctl.status e - 4 := by simp [doException]

theorem doException_boundary_pc : (doException e .boundary s).pc = excVector s.cpu s.ctl.status e := by
  simp [doException]

end

/-- Settles O36: the fields of the control state, each by its own lemma. -/
theorem exceptionEntrySavesAndRedirects : Obligations.ExceptionEntrySavesAndRedirects := by
  intro s e p t code bev vector
  have hcode : (excCode e).toNat = code := by cases e <;> rfl
  have hvector : excVector s.cpu s.ctl.status e = vector := by
    unfold vector
    cases s.cpu with
    | ee =>
      cases e with
      | interrupt => exact excVector_ee_interrupt _
      | _ => exact excVector_ee_common _ (by simp)
    | iop => exact excVector_iop _ _
  refine ⟨doException_written e p s, doException_epc e p s, fun j hj => ?cause, fun j hj => ?status,
    doException_branchPending e p s, doException_inDelaySlot e p s, doException_branchTarget e p s, ?pc⟩
  case cause => rw [doException_cause, getLsbD_causeAtEntry _ _ _ j hj, hcode]
  case status =>
    rw [doException_status]
    cases s.cpu with
    | ee => exact getLsbD_statusAtEntry_ee _ j hj
    | iop => exact getLsbD_statusAtEntry_iop _ j hj
  case pc =>
    rw [← hvector]
    cases p with
    | sync => exact doException_sync_pc e s
    | boundary => exact doException_boundary_pc e s

/-! ## The interrupt check (R420) -/

/-- Two words share a bit of the field that starts at bit `i`. -/
theorem fields_meet_iff (a b : Word) (i n : Nat) :
    (a.extractLsb' i n &&& b.extractLsb' i n != 0) = true ↔
      ∃ j < n, a.getLsbD (i + j) = true ∧ b.getLsbD (i + j) = true := by
  rw [and_ne_zero_eq_any, List.any_eq_true]
  refine exists_congr fun j => ?_
  rw [List.mem_range]
  refine and_congr_right fun hj => ?_
  simp [hj]

/-- On the EE: enabled by IE and EIE outside EXL, and some interrupt bit of Cause with its mask bit. -/
theorem interruptTaken_ee {s : State} (hc : s.cpu = .ee) :
    s.interruptTaken = true ↔
      s.ctl.status.getLsbD 0 = true ∧ s.ctl.status.getLsbD 1 = false ∧ s.ctl.status.getLsbD 16 = true ∧
        ∃ j < 8, s.causeLive.getLsbD (8 + j) = true ∧ s.ctl.status.getLsbD (8 + j) = true := by
  simp only [State.interruptTaken, hc, ctl_ee hc, Bool.and_eq_true, Bool.not_eq_true', and_assoc, fields_meet_iff]

/-- On the IOP: enabled by IEc, and some interrupt bit of Cause with its mask bit. -/
theorem interruptTaken_iop {s : State} (hc : s.cpu = .iop) :
    s.interruptTaken = true ↔
      s.ctl.status.getLsbD 0 = true ∧
        ∃ j < 3, s.causeLive.getLsbD (8 + j) = true ∧ s.ctl.status.getLsbD (8 + j) = true := by
  simp only [State.interruptTaken, hc, ctl_iop hc, Bool.and_eq_true, fields_meet_iff]

/-- A bit that the mask leaves out is clear. -/
theorem getLsbD_of_within {w : Nat} {mask v : BitVec w} (h : Within mask v) {j : Nat}
    (hm : mask.getLsbD j = false) : v.getLsbD j = false := by
  by_cases hj : j < w
  · rw [BitVec.getLsbD_eq_getElem hj] at hm ⊢
    exact Bool.eq_false_iff.2 fun hv => Bool.eq_false_iff.1 hm (within_iff.1 h j hj hv)
  · exact BitVec.getLsbD_of_ge _ _ (by omega)

/-- The EE's pending sources: no run stores Cause's other interrupt bits (10_state.md R55). -/
theorem pending_ee_iff {s : State} (hc : s.cpu = .ee) (hw : Within 0x8000807C#32 s.ee.ctl.cause) :
    (∃ j < 8, s.causeLive.getLsbD (8 + j) = true ∧ s.ctl.status.getLsbD (8 + j) = true) ↔
      (s.ctl.status.getLsbD 10 = true ∧ s.eeIntc.stat &&& s.eeIntc.mask ≠ 0) ∨
      (s.ctl.status.getLsbD 11 = true ∧ eeDmacLine s.eeDmac.dStat = true) ∨
      (s.ctl.status.getLsbD 15 = true ∧ s.ee.ctl.cause.getLsbD 15 = true) := by
  have stored : ∀ j < 8, j = 2 ∨ j = 3 ∨ j = 7 ∨
      (j ≠ 2 ∧ j ≠ 3 ∧ (0x8000807C#32).getLsbD (8 + j) = false) := by decide
  have live := getLsbD_causeLive_ee hc
  have intc : s.eeInt0 = true ↔ s.eeIntc.stat &&& s.eeIntc.mask ≠ 0 := bne_iff_ne
  constructor
  · rintro ⟨j, hj, hcause, hstatus⟩
    rw [live _ (by omega)] at hcause
    obtain rfl | rfl | rfl | ⟨h2, h3, hmask⟩ := stored j hj
    · exact .inl ⟨hstatus, intc.1 hcause⟩
    · exact .inr (.inl ⟨hstatus, hcause⟩)
    · exact .inr (.inr ⟨hstatus, hcause⟩)
    · rw [if_neg (by omega), if_neg (by omega), getLsbD_of_within hw hmask] at hcause
      exact absurd hcause (by simp)
  · rintro (⟨hstatus, hline⟩ | ⟨hstatus, hline⟩ | ⟨hstatus, hip7⟩)
    · exact ⟨2, by omega, (live 10 (by omega)).trans (intc.2 hline), hstatus⟩
    · exact ⟨3, by omega, (live 11 (by omega)).trans hline, hstatus⟩
    · exact ⟨7, by omega, (live 15 (by omega)).trans hip7, hstatus⟩

/-- The IOP's pending sources. -/
theorem pending_iop_iff {s : State} (hc : s.cpu = .iop) :
    (∃ j < 3, s.causeLive.getLsbD (8 + j) = true ∧ s.ctl.status.getLsbD (8 + j) = true) ↔
      (s.ctl.status.getLsbD 8 = true ∧ s.iop.ctl.cause.getLsbD 8 = true) ∨
      (s.ctl.status.getLsbD 9 = true ∧ s.iop.ctl.cause.getLsbD 9 = true) ∨
      (s.ctl.status.getLsbD 10 = true ∧ s.iopIntc.stat &&& s.iopIntc.mask ≠ 0) := by
  have live := getLsbD_causeLive_iop hc
  have intc : s.iopLine = true ↔ s.iopIntc.stat &&& s.iopIntc.mask ≠ 0 := bne_iff_ne
  have software8 : s.causeLive.getLsbD 8 = s.iop.ctl.cause.getLsbD 8 := live 8 (by omega)
  have software9 : s.causeLive.getLsbD 9 = s.iop.ctl.cause.getLsbD 9 := live 9 (by omega)
  have line : s.causeLive.getLsbD 10 = s.iopLine := live 10 (by omega)
  simp only [Nat.exists_lt_succ_left, Nat.not_lt_zero, false_and, exists_false, or_false, Nat.zero_add,
    Nat.add_zero, Nat.reduceAdd, software8, software9, line, intc, and_comm]

theorem interruptCheck_taken {s : State} (h : s.interruptTaken = true) :
    interruptCheck s = doException .interrupt .boundary s := if_pos h

theorem interruptCheck_not_taken {s : State} (h : ¬ s.interruptTaken = true) : interruptCheck s = s := if_neg h

/-- Settles O41: the model's test of Cause's interrupt field against Status's, source by source. -/
theorem interruptCheckTakesPendingSources : Obligations.InterruptCheckTakesPendingSources := by
  intro s hinv st taken
  have htaken : s.interruptTaken = true ↔ taken := by
    unfold taken
    cases hc : s.cpu with
    | ee => rw [interruptTaken_ee hc, pending_ee_iff hc hinv.eeCause]
    | iop => rw [interruptTaken_iop hc, pending_iop_iff hc]
  exact ⟨fun h => interruptCheck_taken (htaken.2 h), fun h => interruptCheck_not_taken (mt htaken.1 h)⟩

/-! ## Entry masks the check (R414) -/

/-- EXL on the EE, and IEc clear on the IOP, keep the check from taking an interrupt. -/
theorem not_interruptTaken_of_masked {s : State} (hee : s.cpu = .ee → s.ctl.status.getLsbD 1 = true)
    (hiop : s.cpu = .iop → s.ctl.status.getLsbD 0 = false) : ¬ s.interruptTaken = true := by
  cases hc : s.cpu with
  | ee => rw [interruptTaken_ee hc, hee hc]; simp
  | iop => rw [interruptTaken_iop hc, hiop hc]; simp

theorem countTick_cpu (s : State) : (countTick s).cpu = s.cpu := by
  unfold countTick
  cases h : s.cpu
  · exact h
  · exact h

/-- Steps 5 and 6 before the check write Status nowhere. -/
theorem status_after_step (s : State) : (countTick (advance s)).ctl.status = s.ctl.status := by
  rw [countTick_ctl, (advanceAppliesThenLatches s).ctl]

theorem cpu_after_step (s : State) : (countTick (advance s)).cpu = s.cpu := by
  rw [countTick_cpu]; rfl

section
variable {e : Exc} {p : EntryPoint} {s : State}

/-- Entry sets EXL on the EE. -/
theorem doException_sets_exl (hc : s.cpu = .ee) : (doException e p s).ctl.status.getLsbD 1 = true := by
  rw [doException_status, hc, getLsbD_statusAtEntry_ee _ 1 (by omega), if_pos rfl]

/-- Entry clears IEc on the IOP. -/
theorem doException_clears_iec (hc : s.cpu = .iop) : (doException e p s).ctl.status.getLsbD 0 = false := by
  rw [doException_status, hc, getLsbD_statusAtEntry_iop _ 0 (by omega), if_pos (by omega)]

/-- Entry keeps every bit of the EE's Status but EXL. -/
theorem doException_keeps_status (hc : s.cpu = .ee) {j : Nat} (hj : j < 32) (hexl : j ≠ 1) :
    (doException e p s).ctl.status.getLsbD j = s.ctl.status.getLsbD j := by
  rw [doException_status, hc, getLsbD_statusAtEntry_ee _ j hj, if_neg hexl]

end

/-- A state with the Status that entry leaves takes no interrupt. -/
theorem not_interruptTaken_of_entered {e : Exc} {p : EntryPoint} {s t : State}
    (hcpu : t.cpu = (doException e p s).cpu) (hstatus : t.ctl.status = (doException e p s).ctl.status) :
    ¬ t.interruptTaken = true :=
  not_interruptTaken_of_masked (fun hc => by rw [hstatus]; exact doException_sets_exl (hcpu.symm.trans hc))
    (fun hc => by rw [hstatus]; exact doException_clears_iec (hcpu.symm.trans hc))

/-- Settles O42: entry is a write of the control state alone, whose Status masks the check at once and, kept by steps
5 and 6, at the end of the step. -/
theorem entryMasksInterrupts : Obligations.EntryMasksInterrupts := by
  intro s e p
  refine ⟨(doException_written e p s).registers, rfl, rfl, rfl, rfl, rfl, rfl, fun hc j hj => ?kept,
    doException_sets_exl, doException_clears_iec, ?atOnce, ?atTheEnd⟩
  case kept =>
    have bound : ∀ k ∈ [2, 3, 4, 16], k < 32 ∧ k ≠ 1 := by decide
    obtain ⟨hlt, hexl⟩ := bound j hj
    exact doException_keeps_status hc hlt hexl
  case atOnce => exact interruptCheck_not_taken (not_interruptTaken_of_entered rfl rfl)
  case atTheEnd =>
    exact interruptCheck_not_taken (not_interruptTaken_of_entered (cpu_after_step _) (status_after_step _))

end Sys2Proof.Machine
end

section
/-! SUPPORT. Writes of CHCR: the addresses of the channels' CHCR registers, each case of a write, and the statement
(60_exceptions.md R480, R490, R520, R522). -/

namespace Sys2Proof.Machine

/-! ## The CHCR registers at their addresses -/

/-- CHCR is the first register of an EE channel's block (R480). -/
theorem mmioTarget_eeChcr {ch : Fin 10} {base : Nat} (hb : (ch, base) ∈ eeChannelBlocks) :
    mmioTarget .ee (BitVec.ofNat 32 base) 4 = .eeReg (.chcr ch) := by
  have all : ∀ b ∈ eeChannelBlocks, mmioTarget .ee (BitVec.ofNat 32 b.2) 4 = .eeReg (.chcr b.1) := by decide
  simpa only using all (ch, base) hb

/-- CHCR stands 8 bytes into an IOP channel's block (R520). -/
theorem mmioTarget_iopChcr {ch : Fin 13} {base : Nat} (hb : (ch, base) ∈ iopChannelBlocks) :
    mmioTarget .iop (BitVec.ofNat 32 (base + 8)) 4 = .iopReg (.chcr ch) := by
  have all : ∀ b ∈ iopChannelBlocks, mmioTarget .iop (BitVec.ofNat 32 (b.2 + 8)) 4 = .iopReg (.chcr b.1) := by
    decide
  simpa only using all (ch, base) hb

section
variable {s : State} {pa : Word} {v : Quad}

theorem mmioWrite_eeChcr {ch : Fin 10} (h : mmioTarget .ee pa 4 = .eeReg (.chcr ch)) :
    mmioWrite .ee s pa 4 v = writeEeChcr ch (v.setWidth 32) s := by
  simp only [mmioWrite, h, writeEeReg]

theorem mmioWrite_iopChcr {ch : Fin 13} (h : mmioTarget .iop pa 4 = .iopReg (.chcr ch)) :
    mmioWrite .iop s pa 4 v = writeIopChcr ch (v.setWidth 32) s := by
  simp only [mmioWrite, h, writeIopReg]

end

/-! ## EE channels (R490) -/

theorem toNat_eeMod (chcr : Word) : (eeMod chcr).toNat = (chcr >>> 2).toNat % 4 := by
  simp [eeMod, BitVec.extractLsb'_toNat]

/-- A source chain starts on the channels that move from memory: always, or by DIR (R480, R490). -/
theorem eeFromMemory_iff (ch : Fin 10) (chcr : Word) :
    eeFromMemory ch chcr = true ↔ ch.val ∈ [4, 6, 9] ∨ (ch.val ∈ [0, 1, 2, 7] ∧ chcr.getLsbD 0 = true) := by
  fin_cases ch <;> simp [eeFromMemory, eeDir]

section
variable {s : State} {ch : Fin 10} {v : Word}

theorem writeEeChcr_stop (hnew : (v &&& eeChcrMask).getLsbD 8 = false) :
    writeEeChcr ch v s =
      .next (s.setEeChannel ch { s.eeChannel ch with chcr := v &&& eeChcrMask, phase := .idle }) := if_pos hnew

theorem writeEeChcr_running (hnew : (v &&& eeChcrMask).getLsbD 8 = true)
    (hold : (s.eeChannel ch).chcr.getLsbD 8 = true) :
    writeEeChcr ch v s = .next (s.setEeChannel ch { s.eeChannel ch with chcr := v &&& eeChcrMask }) := by
  simp only [writeEeChcr, eeStr, hnew, hold, Bool.true_eq_false, if_true, if_false]

theorem eeChannel_implemented (ch : Fin 10) : (Config.implementedChannels .ee).contains ch.val = true := by
  revert ch
  decide

/-- A start, by its mode. -/
theorem writeEeChcr_start (hnew : (v &&& eeChcrMask).getLsbD 8 = true)
    (hold : (s.eeChannel ch).chcr.getLsbD 8 = false) :
    ((eeMod (v &&& eeChcrMask)).toNat = 0 → writeEeChcr ch v s =
      .next (s.setEeChannel ch
        { s.eeChannel ch with chcr := v &&& eeChcrMask, phase := .active, chainEnd := true })) ∧
    ((eeMod (v &&& eeChcrMask)).toNat = 1 → eeFromMemory ch (v &&& eeChcrMask) = true → writeEeChcr ch v s =
      .next (s.setEeChannel ch { s.eeChannel ch with
        chcr := v &&& eeChcrMask, chainEnd := false,
        phase := if (s.eeChannel ch).qwc = 0 then .tagFetch else .active })) ∧
    ((eeMod (v &&& eeChcrMask)).toNat = 1 → ¬ eeFromMemory ch (v &&& eeChcrMask) = true →
      writeEeChcr ch v s = .refused (.dmaMode .ee ch.val .destChain)) ∧
    ((eeMod (v &&& eeChcrMask)).toNat = 2 → writeEeChcr ch v s = .refused (.dmaMode .ee ch.val .interleave)) ∧
    ((eeMod (v &&& eeChcrMask)).toNat = 3 →
      writeEeChcr ch v s = .fault (.dmaBadControl .ee ch.val (v &&& eeChcrMask))) := by
  have not8 : eeFromMemory ch (v &&& eeChcrMask) = true → (ch.val != 8) = true := by
    rw [eeFromMemory_iff, bne_iff_ne]
    intro h h8
    simp [h8] at h
  simp only [writeEeChcr, eeStr, hnew, hold, eeChannel_implemented, Bool.true_eq_false, Bool.false_eq_true, if_false]
  refine ⟨fun h => ?_, fun h hf => ?_, fun h hf => ?_, fun h => ?_, fun h => ?_⟩
  · simp only [h]
  · simp only [h, hf, not8 hf, Bool.and_self, if_true]
  · simp only [h, hf, Bool.false_and, Bool.false_eq_true, if_false]
  · simp only [h]
  · simp only [h]

end

/-! ## IOP channels (R522) -/

theorem iopChannel_implemented (ch : Fin 13) : (Config.implementedChannels .iop).contains ch.val = true := by
  revert ch
  decide

theorem toNat_low16 {n : Nat} (v : BitVec n) : (v.extractLsb' 0 16).toNat = v.toNat % 0x10000 := by
  simp [BitVec.extractLsb'_toNat]

/-- The word count in sync mode 0; a size of 0 counts as 0x10000. -/
theorem iopBurstCount_eq (bcr : Word) :
    iopBurstCount bcr = BitVec.ofNat 32 (if bcr.toNat % 0x10000 = 0 then 0x10000 else bcr.toNat % 0x10000) := by
  have zero : bcr.extractLsb' 0 16 = 0 ↔ bcr.toNat % 0x10000 = 0 := by
    rw [← toNat_low16]
    exact BitVec.toNat_eq
  by_cases h : bcr.toNat % 0x10000 = 0
  · simp only [iopBurstCount, zero.2 h, h, if_true]
  · rw [iopBurstCount, if_neg (mt zero.1 h), if_neg h, ← toNat_low16, BitVec.ofNat_toNat]

/-- The word count in sync mode 1: the size times the number of blocks. -/
theorem iopBlockCount_eq (bcr : Word) :
    iopBlockCount bcr = BitVec.ofNat 32 (bcr.toNat % 0x10000 * (bcr.toNat / 0x10000)) := by
  have blocks : (bcr.extractLsb' 16 16).toNat = bcr.toNat / 0x10000 := by
    rw [BitVec.extractLsb'_toNat, Nat.shiftRight_eq_div_pow]
    omega
  rw [iopBlockCount, ← toNat_low16, ← blocks, BitVec.ofNat_mul, BitVec.ofNat_toNat, BitVec.ofNat_toNat]

section
variable {s : State} {ch : Fin 13} {v : Word}

theorem writeIopChcr_stop (hnew : v.getLsbD 24 = false) :
    writeIopChcr ch v s = .next (s.setIopChannel ch { s.iopChannel ch with chcr := v, phase := .idle }) :=
  if_pos hnew

theorem writeIopChcr_running (hnew : v.getLsbD 24 = true) (hold : (s.iopChannel ch).chcr.getLsbD 24 = true) :
    writeIopChcr ch v s = .next (s.setIopChannel ch { s.iopChannel ch with chcr := v }) := by
  simp only [writeIopChcr, iopStart, hnew, hold, Bool.true_eq_false, if_true, if_false]

/-- A start, by its sync mode. -/
theorem writeIopChcr_start (hnew : v.getLsbD 24 = true) (hold : (s.iopChannel ch).chcr.getLsbD 24 = false) :
    (v.extractLsb' 9 2 = 0 → writeIopChcr ch v s = .next (s.setIopChannel ch
      { s.iopChannel ch with chcr := v, phase := .active, remaining := iopBurstCount (s.iopChannel ch).bcr })) ∧
    (v.extractLsb' 9 2 = 1 → writeIopChcr ch v s = .next (s.setIopChannel ch
      { s.iopChannel ch with chcr := v, phase := .active, remaining := iopBlockCount (s.iopChannel ch).bcr })) ∧
    (v.extractLsb' 9 2 = 2 ∨ v.extractLsb' 9 2 = 3 →
      writeIopChcr ch v s = .refused (.dmaMode .iop ch.val (.iopSync (v.extractLsb' 9 2)))) := by
  simp only [writeIopChcr, iopStart, hnew, hold, iopChannel_implemented, Bool.true_eq_false, Bool.false_eq_true,
    if_false]
  refine ⟨fun h => ?_, fun h => ?_, ?_⟩
  · rw [h]; rfl
  · rw [h]; rfl
  · rintro (h | h) <;> rw [h] <;> rfl

end

/-- Settles O54: at a channel's CHCR the dispatcher does the controller's write, whose cases are those of R490 and
R522. -/
theorem dmaStartsFollowTheirRules : Obligations.DmaStartsFollowTheirRules := by
  refine ⟨?ee, ?iop⟩
  case ee =>
    intro s ch base v hbase c new write mode fromMemory
    have hblock : (ch, base) ∈ eeChannelBlocks := by
      obtain ⟨b, hb, hb'⟩ := List.mem_map.1
        (show (ch.val, base) ∈ eeChannelBlocks.map (fun b => (b.1.val, b.2)) from hbase)
      obtain rfl : b = (ch, base) := Prod.ext (Fin.ext (Prod.ext_iff.1 hb').1) (Prod.ext_iff.1 hb').2
      exact hb
    have hwrite : write = writeEeChcr ch (v.setWidth 32) s := mmioWrite_eeChcr (mmioTarget_eeChcr hblock)
    have hmode : mode = (eeMod new).toNat := (toNat_eeMod new).symm
    have hmemory : fromMemory ↔ eeFromMemory ch new = true := (eeFromMemory_iff ch new).symm
    rw [hwrite, hmode, hmemory]
    exact ⟨writeEeChcr_stop, writeEeChcr_running, writeEeChcr_start⟩
  case iop =>
    intro s ch v c new base write size
    have hblock : (ch, base) ∈ iopChannelBlocks := by
      unfold base
      revert ch
      decide
    have hwrite : write = writeIopChcr ch new s := mmioWrite_iopChcr (mmioTarget_iopChcr hblock)
    rw [hwrite, ← iopBurstCount_eq, ← iopBlockCount_eq]
    exact ⟨writeIopChcr_stop, writeIopChcr_running, writeIopChcr_start⟩

end Sys2Proof.Machine
end

section
/-! SUPPORT. Ticks of an EE channel: its phases, the tag applied by its ID, an Active tick of a chain, and the statement
(60_exceptions.md R491 to R495; 20_memory.md R134). -/

namespace Sys2Proof.Machine

/-! ## The phases of a tick (R471) -/

section
variable {s : State} {ch : Fin 10}

theorem eeChannelTick_active (hstr : (s.eeChannel ch).chcr.getLsbD 8 = true)
    (hphase : (s.eeChannel ch).phase = .active) : eeChannelTick ch s = eeActiveTick ch s := by
  simp only [eeChannelTick, eeStr, hstr, hphase, Bool.true_eq_false, if_false]

theorem eeChannelTick_tagFetch (hstr : (s.eeChannel ch).chcr.getLsbD 8 = true)
    (hphase : (s.eeChannel ch).phase = .tagFetch) :
    eeChannelTick ch s = useLoaded (dmaRead16 s (s.eeChannel ch).tadr) (eeTagTick ch) := by
  simp only [eeChannelTick, eeStr, hstr, hphase, Bool.true_eq_false, if_false]

end

/-! ## The memory path (20_memory.md R134) -/

theorem eeDmaKey_unmapped {write : Bool} {addr : Word} (hspr : addr.getLsbD 31 = false)
    (hp : pageEntry .ee addr = none) : eeDmaKey write addr = none := by
  simp only [eeDmaKey, hspr, hp, Bool.false_eq_true, if_false]

theorem dmaRead16_unmapped {s : State} {addr : Word} (h : eeDmaKey false addr = none) :
    dmaRead16 s addr = .fault (.unmappedAccess addr 16 false) := by
  simp only [dmaRead16, h]

theorem dmaRead16_mapped {s : State} {addr : Word} {key : Nat} (h : eeDmaKey false addr = some key) :
    dmaRead16 s addr = .value (s.mem.readLE key 16) s := by
  simp only [dmaRead16, h]

/-! ## An Active tick (R491) -/

theorem setEeChannel_dStat (s : State) (ch : Fin 10) (c : EeChannel) :
    (s.setEeChannel ch c).eeDmac.dStat = s.eeDmac.dStat := rfl

/-- What the movement of a quadword leaves alone: the channel but for SADR, and D_STAT. -/
def KeepsTransfer (ch : Fin 10) (s t : State) : Prop :=
  (∃ a, t.eeChannel ch = { s.eeChannel ch with sadr := a }) ∧ t.eeDmac.dStat = s.eeDmac.dStat

theorem keepsTransfer_of_eeDmac {ch : Fin 10} {s t : State} (h : t.eeDmac = s.eeDmac) : KeepsTransfer ch s t :=
  ⟨⟨_, by rw [State.eeChannel, h]; rfl⟩, by rw [h]⟩

theorem keepsTransfer_setSadr {ch : Fin 10} {s t : State} (h : t.eeDmac = s.eeDmac) (a : Word) :
    KeepsTransfer ch s (t.setEeChannel ch { s.eeChannel ch with sadr := a }) :=
  ⟨⟨a, by simp⟩, (setEeChannel_dStat _ _ _).trans (congrArg EeDmac.dStat h)⟩

/-- Moving a quadword writes SADR at most, on channels 8 and 9 (R492). -/
theorem eeMoveQuad_keepsTransfer {ch : Fin 10} {s t : State} (h : eeMoveQuad ch s = .next t) :
    KeepsTransfer ch s t := by
  unfold eeMoveQuad at h
  simp only at h
  split at h
  case h_1 =>
    obtain ⟨u, hu, hn⟩ := andThen_eq_next.1 h
    obtain ⟨k, -, rfl⟩ := dmaWrite16_next hu
    cases hn
    exact keepsTransfer_setSadr rfl _
  case h_2 =>
    obtain ⟨q, u, hu, hn⟩ := useLoaded_eq_next.1 h
    obtain ⟨rfl, -⟩ := dmaRead16_value hu
    cases hn
    exact keepsTransfer_setSadr rfl _
  case h_3 =>
    split at h
    · obtain ⟨q, u, hu, hn⟩ := useLoaded_eq_next.1 h
      obtain ⟨rfl, -⟩ := dmaRead16_value hu
      cases hn
      exact keepsTransfer_of_eeDmac rfl
    · obtain ⟨k, -, rfl⟩ := dmaWrite16_next h
      exact keepsTransfer_of_eeDmac rfl

section
variable {s t : State} {ch : Fin 10}

/-- The end of an Active tick of a chain that has not ended: on to the next tag where no quadword is left. -/
theorem eeCheckDone_chain (hend : (s.eeChannel ch).chainEnd = false) :
    eeCheckDone ch s =
      if (s.eeChannel ch).qwc = 0 then s.setEeChannel ch { s.eeChannel ch with phase := .tagFetch } else s := by
  simp only [eeCheckDone, hend, Bool.false_eq_true, if_false]

theorem eeActiveTick_chain_empty (hend : (s.eeChannel ch).chainEnd = false) (hqwc : (s.eeChannel ch).qwc = 0) :
    eeActiveTick ch s = .next (s.setEeChannel ch { s.eeChannel ch with phase := .tagFetch }) := by
  rw [eeActiveTick, if_pos hqwc, eeCheckDone_chain hend, if_pos hqwc]

/-- The check writes the phase alone. -/
theorem eeCheckDone_chain_channel (hphase : (s.eeChannel ch).phase = .active)
    (hend : (s.eeChannel ch).chainEnd = false) :
    (eeCheckDone ch s).eeChannel ch =
        { s.eeChannel ch with phase := if (s.eeChannel ch).qwc = 0 then .tagFetch else .active } ∧
      (eeCheckDone ch s).eeDmac.dStat = s.eeDmac.dStat := by
  rw [eeCheckDone_chain hend]
  by_cases hqwc : (s.eeChannel ch).qwc = 0
  · simp [hqwc, setEeChannel_dStat]
  · rw [if_neg hqwc, if_neg hqwc, ← hphase]
    exact ⟨rfl, rfl⟩

/-- An Active tick of a chain that has not ended never completes the channel (R491). -/
theorem eeActiveTick_chain (hphase : (s.eeChannel ch).phase = .active) (hend : (s.eeChannel ch).chainEnd = false)
    (h : eeActiveTick ch s = .next t) :
    (t.eeChannel ch).phase = (if (t.eeChannel ch).qwc = 0 then .tagFetch else .active) ∧
      (t.eeChannel ch).chcr = (s.eeChannel ch).chcr ∧ t.eeDmac.dStat = s.eeDmac.dStat := by
  unfold eeActiveTick at h
  split at h
  case isTrue =>
    cases h
    obtain ⟨hchannel, hstat⟩ := eeCheckDone_chain_channel hphase hend
    rw [hchannel]
    exact ⟨rfl, rfl, hstat⟩
  case isFalse =>
    rw [portReady_always] at h
    obtain ⟨u, hu, hn⟩ := andThen_eq_next.1 h
    cases hn
    obtain ⟨⟨a, hmoved⟩, hkept⟩ := eeMoveQuad_keepsTransfer hu
    have hadvanced : (eeAdvance ch u).eeChannel ch =
        { u.eeChannel ch with madr := (u.eeChannel ch).madr + 16, qwc := (u.eeChannel ch).qwc - 1 } := by
      simp [eeAdvance]
    obtain ⟨hchannel, hstat⟩ := eeCheckDone_chain_channel (ch := ch) (s := eeAdvance ch u)
      (by rw [hadvanced, hmoved]; exact hphase) (by rw [hadvanced, hmoved]; exact hend)
    rw [hchannel]
    refine ⟨rfl, ?_, hstat.trans hkept⟩
    rw [hadvanced, hmoved]

end

/-! ## The tag (R493 to R495) -/

/-- The length of the tag's data in bytes. -/
theorem tagBytes_eq (tag : Quad) :
    ((tag.extractLsb' 0 16).setWidth 32 : Word) <<< 4 = BitVec.ofNat 32 (16 * (tag.toNat % 0x10000)) := by
  apply BitVec.eq_of_toNat_eq
  rw [BitVec.toNat_shiftLeft, BitVec.toNat_setWidth, toNat_low16, BitVec.toNat_ofNat, Nat.shiftLeft_eq]
  omega

/-- Loading a tag keeps the low half of CHCR, so all that steers the fetch: ASP, TTE and TIE. -/
theorem getLsbD_loadTag_chcr (c : EeChannel) (tag : Quad) {j : Nat} (hj : j < 16) :
    (eeLoadTag c tag).chcr.getLsbD j = c.chcr.getLsbD j := by
  have mask : ∀ k < 16, (0xFFFF0000#32).getLsbD k = false := by decide
  simp only [eeLoadTag, getLsbD_mergeBits _ _ _ j (by omega), mask j hj, Bool.false_eq_true, if_false]

/-- The address-stack pointer as a number, which the tag does not change. -/
theorem toNat_eeAsp_loadTag (c : EeChannel) (tag : Quad) :
    (eeAsp (eeLoadTag c tag).chcr).toNat = (c.chcr >>> 4).toNat % 4 := by
  have kept : eeAsp (eeLoadTag c tag).chcr = eeAsp c.chcr := by
    apply BitVec.eq_of_getLsbD_eq
    intro j hj
    simp only [eeAsp, BitVec.getLsbD_extractLsb', getLsbD_loadTag_chcr c tag (show 4 + j < 16 by omega)]
  rw [kept]
  simp [eeAsp, BitVec.extractLsb'_toNat]

/-- A new address-stack pointer changes no bit but its own two. -/
theorem eeTie_setAsp (chcr : Word) (asp : BitVec 2) : eeTie (eeSetAsp chcr asp) = eeTie chcr := by
  have mask : (0x00000030#32).getLsbD 7 = false := by decide
  simp only [eeTie, eeSetAsp, getLsbD_mergeBits _ _ _ 7 (by omega), mask, Bool.false_eq_true, if_false]

/-! ### What each ID does to the channel that has loaded the tag (R494, R495) -/

section
variable {c : EeChannel} {tag : Quad} {id : BitVec 3} {addr : Word}

theorem eeApplyTag_refe (hid : id = 0) :
    eeApplyTag c id addr = some { c with madr := addr, tadr := c.tadr + 16, chainEnd := true } := by
  subst hid
  rfl

theorem eeApplyTag_cnt (hid : id = 1) :
    eeApplyTag (eeLoadTag c tag) id addr = some { eeLoadTag c tag with
      madr := c.tadr + 16, tadr := c.tadr + 16 + BitVec.ofNat 32 (16 * (tag.toNat % 0x10000)) } := by
  subst hid
  rw [← tagBytes_eq]
  rfl

theorem eeApplyTag_next (hid : id = 2) :
    eeApplyTag c id addr = some { c with madr := c.tadr + 16, tadr := addr } := by
  subst hid
  rfl

theorem eeApplyTag_ref (hid : id = 3 ∨ id = 4) :
    eeApplyTag c id addr = some { c with madr := addr, tadr := c.tadr + 16 } := by
  obtain rfl | rfl := hid <;> rfl

theorem eeApplyTag_call_first (hid : id = 5) (hasp : (c.chcr >>> 4).toNat % 4 = 0) :
    eeApplyTag (eeLoadTag c tag) id addr = some { eeLoadTag c tag with
      madr := c.tadr + 16, tadr := addr, asr0 := c.tadr + 16 + BitVec.ofNat 32 (16 * (tag.toNat % 0x10000)),
      chcr := eeSetAsp (eeLoadTag c tag).chcr 1 } := by
  subst hid
  simp only [eeApplyTag, toNat_eeAsp_loadTag, hasp, ← tagBytes_eq]
  rfl

theorem eeApplyTag_call_second (hid : id = 5) (hasp : (c.chcr >>> 4).toNat % 4 = 1) :
    eeApplyTag (eeLoadTag c tag) id addr = some { eeLoadTag c tag with
      madr := c.tadr + 16, tadr := addr, asr1 := c.tadr + 16 + BitVec.ofNat 32 (16 * (tag.toNat % 0x10000)),
      chcr := eeSetAsp (eeLoadTag c tag).chcr 2 } := by
  subst hid
  simp only [eeApplyTag, toNat_eeAsp_loadTag, hasp, ← tagBytes_eq]
  rfl

/-- A call with both entries of the address stack taken has no routine. -/
theorem eeApplyTag_call_full (hid : id = 5) (hasp : (c.chcr >>> 4).toNat % 4 = 2) :
    eeApplyTag (eeLoadTag c tag) id addr = none := by
  subst hid
  simp only [eeApplyTag, toNat_eeAsp_loadTag, hasp]
  rfl

/-- A return with an empty address stack ends the chain. -/
theorem eeApplyTag_ret_empty (hid : id = 6) (hasp : (c.chcr >>> 4).toNat % 4 = 0) :
    eeApplyTag (eeLoadTag c tag) id addr =
      some { eeLoadTag c tag with madr := c.tadr + 16, chainEnd := true } := by
  subst hid
  simp only [eeApplyTag, toNat_eeAsp_loadTag, hasp]
  rfl

theorem eeApplyTag_ret_first (hid : id = 6) (hasp : (c.chcr >>> 4).toNat % 4 = 1) :
    eeApplyTag (eeLoadTag c tag) id addr = some { eeLoadTag c tag with
      madr := c.tadr + 16, tadr := c.asr0, chcr := eeSetAsp (eeLoadTag c tag).chcr 0 } := by
  subst hid
  simp only [eeApplyTag, toNat_eeAsp_loadTag, hasp]
  rfl

theorem eeApplyTag_ret_second (hid : id = 6) (hasp : (c.chcr >>> 4).toNat % 4 = 2) :
    eeApplyTag (eeLoadTag c tag) id addr = some { eeLoadTag c tag with
      madr := c.tadr + 16, tadr := c.asr1, chcr := eeSetAsp (eeLoadTag c tag).chcr 1 } := by
  subst hid
  simp only [eeApplyTag, toNat_eeAsp_loadTag, hasp]
  rfl

theorem eeApplyTag_end (hid : id = 7) :
    eeApplyTag c id addr = some { c with madr := c.tadr + 16, chainEnd := true } := by
  subst hid
  rfl

end

/-! ### The tick -/

/-- The state after the fetch of a tag that leaves the channel as `e`: the tag is forwarded under TTE (R493). -/
def afterTag (ch : Fin 10) (tag : Quad) (s : State) (e : EeChannel) : State :=
  { s.setEeChannel ch e with
    dmaOut := if (s.eeChannel ch).chcr.getLsbD 6 && decide (ch.val < 8) then s.dmaOut ++ [.quad ch.val tag]
      else s.dmaOut }

section
variable {s : State} {ch : Fin 10} {tag : Quad}

theorem eeTagTick_applied {d : EeChannel} {ends : Bool}
    (h : eeApplyTag (eeLoadTag (s.eeChannel ch) tag) (tag.extractLsb' 28 3)
      (tag.extractLsb' 32 32 &&& eeAddrMask) = some d)
    (hends : (d.chainEnd || (tag.getLsbD 31 && eeTie d.chcr)) = ends) :
    eeTagTick ch tag s = .next (afterTag ch tag s
      { d with chainEnd := ends, phase := .active }) := by
  have tte : eeTte (eeLoadTag (s.eeChannel ch) tag).chcr = (s.eeChannel ch).chcr.getLsbD 6 :=
    getLsbD_loadTag_chcr _ _ (by omega)
  simp only [eeTagTick, h, hends, tte, afterTag, Nat.le_iff_lt_add_one, Nat.reduceAdd]
  congr 1
  split <;> rfl

theorem eeTagTick_rejected
    (h : eeApplyTag (eeLoadTag (s.eeChannel ch) tag) (tag.extractLsb' 28 3)
      (tag.extractLsb' 32 32 &&& eeAddrMask) = none) :
    eeTagTick ch tag s = .fault (.dmaBadControl .ee ch.val (eeLoadTag (s.eeChannel ch) tag).chcr) := by
  simp only [eeTagTick, h]

end

/-- Settles O56: between tags by the two lemmas of an Active tick; at a tag, each ID by the channel it gives and by
whether it ends the chain. -/
theorem eeTagFetchAppliesTheTag : Obligations.EeTagFetchAppliesTheTag := by
  refine ⟨?between, ?tag⟩
  case between =>
    intro s ch c hstr
    refine ⟨fun hphase hspr hpage => ?_, fun hphase hend => ⟨fun hqwc => ?_, fun t ht => ?_⟩⟩
    · rw [eeChannelTick_tagFetch hstr hphase, dmaRead16_unmapped (eeDmaKey_unmapped hspr hpage)]
      rfl
    · rw [eeChannelTick_active hstr hphase, eeActiveTick_chain_empty hend hqwc]
    · rw [eeChannelTick_active hstr hphase] at ht
      exact eeActiveTick_chain hphase hend ht
  case tag =>
    intro s ch key c hstr hphase hend hkey tag id addr next after chcr asp aspIs ends d gives
    have htick : eeChannelTick ch s = eeTagTick ch tag s := by
      rw [eeChannelTick_tagFetch hstr hphase, dmaRead16_mapped hkey]
      rfl
    have applied {a : EeChannel} {b : Bool} (ha : eeApplyTag (eeLoadTag c tag) id addr = some a)
        (hb : (a.chainEnd || (tag.getLsbD 31 && eeTie a.chcr)) = b) :
        gives { a with chainEnd := b, phase := .active } :=
      ⟨_, htick.trans (eeTagTick_applied ha hb), by simp [afterTag, State.eeChannel, State.setEeChannel], rfl⟩
    have byIrq : ((eeLoadTag c tag).chainEnd || (tag.getLsbD 31 && eeTie (eeLoadTag c tag).chcr)) = ends := by
      have tie : eeTie (eeLoadTag c tag).chcr = c.chcr.getLsbD 7 := getLsbD_loadTag_chcr c tag (by omega)
      rw [tie, show (eeLoadTag c tag).chainEnd = false from hend, Bool.false_or]
    have byIrqAt (k : BitVec 2) :
        ((eeLoadTag c tag).chainEnd || (tag.getLsbD 31 && eeTie (eeSetAsp (eeLoadTag c tag).chcr k))) = ends := by
      rw [eeTie_setAsp, byIrq]
    refine ⟨fun hid => ?refe, fun hid => ?cnt, fun hid => ?next, fun hid => ?ref, fun hid hasp => ?call0,
      fun hid hasp => ?call1, fun hid hasp => ?full, fun hid hasp => ?ret0, fun hid hasp => ?ret1,
      fun hid hasp => ?ret2, fun hid => ?finish⟩
    case refe => exact applied (eeApplyTag_refe hid) (Bool.true_or _)
    case cnt => exact applied (eeApplyTag_cnt hid) byIrq
    case next => exact applied (eeApplyTag_next hid) byIrq
    case ref => exact applied (eeApplyTag_ref hid) byIrq
    case call0 => exact applied (eeApplyTag_call_first hid hasp) (byIrqAt 1)
    case call1 => exact applied (eeApplyTag_call_second hid hasp) (byIrqAt 2)
    case full => exact htick.trans (eeTagTick_rejected (eeApplyTag_call_full hid hasp))
    case ret0 => exact applied (eeApplyTag_ret_empty hid hasp) (Bool.true_or _)
    case ret1 => exact applied (eeApplyTag_ret_first hid hasp) (byIrqAt 0)
    case ret2 => exact applied (eeApplyTag_ret_second hid hasp) (byIrqAt 1)
    case finish => exact applied (eeApplyTag_end hid) (Bool.true_or _)

end Sys2Proof.Machine
end

section
/-! SUPPORT. The encoder against the decoder's tables, what the tables hold for each CPU, and the two statements about
encoding (30_encoding.md sections 2 to 4). -/

namespace Sys2Proof

/-! ## Which CPU admits an instruction (R187) -/

theorem eq_ee_of_wellFormed {c : Cpu} {i : Instr} (hi : i.availability = .eeOnly) (h : i.wellFormed c = true) :
    c = .ee := by
  cases c
  · rfl
  · simp [Instr.wellFormed, hi, Availability.on] at h

theorem eq_iop_of_wellFormed {c : Cpu} {i : Instr} (hi : i.availability = .iopOnly) (h : i.wellFormed c = true) :
    c = .iop := by
  cases c
  · simp [Instr.wellFormed, hi, Availability.on] at h
  · rfl

/-- Settles O1: the opcode field of the encoding selects the table, the key field of that table the entry, and the
entry reads its operands back from the fields they were put in. -/
theorem encodeDecodeRoundTrip : Obligations.EncodeDecodeRoundTrip := by
  intro c i h
  cases i with
  | beq | bne | blez | bgtz | addi | addiu | slti | sltiu | andi | ori | xori | lui | lb | lbu | lh | lhu | lw | sb
  | sh | sw => simp [encode, encodeImm, decode]
  | beql | bnel | blezl | bgtzl | daddiu | lwu | lq | ld | sq | sd | cache =>
    obtain rfl := eq_ee_of_wellFormed rfl h
    simp [encode, encodeImm, decode, eeEntry]
  | j | jal => simp [encode, decode]
  | bltz | bgez | bltzal | bgezal => simp [encode, encodeRegimm, decode_regimm, decodeRegimm]
  | bltzl | bgezl | bltzall | bgezall =>
    obtain rfl := eq_ee_of_wellFormed rfl h
    simp [encode, encodeRegimm, decode_regimm, decodeRegimm, eeEntry]
  | jr | jalr | add | addu | sub | subu | and | or | xor | nor | slt | sltu | sllv | srlv | srav | mult | multu | div
  | divu | mfhi | mflo | mthi | mtlo => simp [encode, encodeSpecial, decode_special, decodeSpecial]
  | sll | srl | sra => simp [encode, encodeShift, decode_special, decodeSpecial]
  | syscall | brk => simp [encode, decode_special, decodeSpecial]
  | daddu | dsubu | dsllv | dsrlv | dsrav | movz | movn =>
    obtain rfl := eq_ee_of_wellFormed rfl h
    simp [encode, encodeSpecial, decode_special, decodeSpecial, eeEntry]
  | dsll | dsrl | dsra | dsll32 | dsrl32 | dsra32 | sync =>
    obtain rfl := eq_ee_of_wellFormed rfl h
    simp [encode, encodeShift, decode_special, decodeSpecial, eeEntry]
  | paddw | psubw | pand | por | pxor | pnor | pcpyld | pcpyud =>
    obtain rfl := eq_ee_of_wellFormed rfl h
    simp [encode, encodeMmi, decode_mmi, decodeMmi, decodeMmiEe]
  | mfc0 | mtc0 => simp [encode, encodeCop0Move, decode_cop0, decodeCop0]
  | eret | ei | di | tlbr | tlbwi | tlbwr | tlbp =>
    obtain rfl := eq_ee_of_wellFormed rfl h
    simp [encode, encodeCo, decode_cop0, decodeCop0_coEe, decodeCoEe]
  | rfe =>
    obtain rfl := eq_iop_of_wellFormed rfl h
    simp [encode, encodeCo, decode_cop0, decodeCop0_coIop, decodeCoIop]

/-! ## The tables hold only what their CPU admits -/

/-- An instruction of a table's entry is one that the CPU admits. -/
def Decoded.Admitted (c : Cpu) (d : Decoded) : Prop := ∀ i, d = .instr i → i.wellFormed c = true

section
variable {c : Cpu} {w : Word} {i : Instr}

theorem admitted_both (hi : i.availability = .both) : (Decoded.instr i).Admitted c := by
  rintro _ ⟨⟩
  simp [Instr.wellFormed, hi, Availability.on]

theorem admitted_ee (hi : i.availability = .eeOnly) : (Decoded.instr i).Admitted .ee := by
  rintro _ ⟨⟩
  simp [Instr.wellFormed, hi, Availability.on]

theorem admitted_iop (hi : i.availability = .iopOnly) : (Decoded.instr i).Admitted .iop := by
  rintro _ ⟨⟩
  simp [Instr.wellFormed, hi, Availability.on]

theorem admitted_eeEntry (hi : i.availability = .eeOnly) : (eeEntry c i).Admitted c := by
  cases c
  · exact admitted_ee hi
  · rintro _ ⟨⟩

theorem admitted_illegal : Decoded.illegal.Admitted c := by rintro _ ⟨⟩
theorem admitted_notAdmitted : Decoded.notAdmitted.Admitted c := by rintro _ ⟨⟩
theorem admitted_eeRefused : (eeRefused c).Admitted c := by cases c <;> rintro _ ⟨⟩
theorem admitted_eeCoprocessor : (eeCoprocessor c).Admitted c := by cases c <;> rintro _ ⟨⟩

theorem decodeSpecial_admitted : (decodeSpecial c w).Admitted c := by
  unfold decodeSpecial
  split
  all_goals first
    | exact admitted_both rfl
    | exact admitted_eeEntry rfl
    | exact admitted_eeRefused
    | exact admitted_illegal

theorem decodeRegimm_admitted : (decodeRegimm c w).Admitted c := by
  unfold decodeRegimm
  split
  all_goals first
    | exact admitted_both rfl
    | exact admitted_eeEntry rfl
    | exact admitted_eeRefused
    | exact admitted_illegal

theorem decodeCoEe_admitted : (decodeCoEe w).Admitted .ee := by
  unfold decodeCoEe
  split
  all_goals first
    | exact admitted_ee rfl
    | exact admitted_notAdmitted

theorem decodeCoIop_admitted : (decodeCoIop w).Admitted .iop := by
  unfold decodeCoIop
  split
  · exact admitted_iop rfl
  · exact admitted_notAdmitted

theorem decodeCop0_admitted : (decodeCop0 c w).Admitted c := by
  unfold decodeCop0
  split
  · exact admitted_both rfl
  · exact admitted_both rfl
  · exact admitted_eeRefused
  · cases c
    · exact decodeCoEe_admitted
    · exact decodeCoIop_admitted
  · exact admitted_illegal

theorem decodeMmiEe_admitted : (decodeMmiEe w).Admitted .ee := by
  unfold decodeMmiEe
  split
  all_goals first
    | exact admitted_ee rfl
    | exact admitted_notAdmitted

theorem decodeMmi_admitted : (decodeMmi c w).Admitted c := by
  cases c
  · exact decodeMmiEe_admitted
  · exact admitted_illegal

theorem decode_admitted : (decode c w).Admitted c := by
  unfold decode
  split
  all_goals first
    | exact admitted_both rfl
    | exact admitted_eeEntry rfl
    | exact admitted_eeRefused
    | exact admitted_eeCoprocessor
    | exact admitted_illegal
    | exact admitted_notAdmitted
    | exact decodeSpecial_admitted
    | exact decodeRegimm_admitted
    | exact decodeCop0_admitted
    | exact decodeMmi_admitted

end

/-- Settles O2: table by table, each entry by its kind. -/
theorem decodedInstructionsAreAdmitted : Obligations.DecodedInstructionsAreAdmitted :=
  fun _ _ i h => decode_admitted i h

end Sys2Proof
end

section
/-! SUPPORT. Effective addresses, loads and stores in mapped memory, and their statements (42_load_store.md section 1;
20_memory.md R100, R107, R110, R111). -/

namespace Sys2Proof.Machine

/-! ## Effective addresses (42_load_store.md R350) -/

/-- The unsigned value of a sum with a sign-extended offset. -/
theorem toNat_add_signExtend {n w : Nat} (hw : n ≤ w) (a : BitVec w) (off : BitVec n) :
    ((a + off.signExtend w).toNat : Int) = ((a.toNat : Int) + off.toInt) % 2 ^ w := by
  have h : a + off.signExtend w = BitVec.ofInt w ((a.toNat : Int) + off.toInt) := by
    rw [BitVec.ofInt_add, BitVec.ofInt_natCast, BitVec.ofNat_toNat, BitVec.setWidth_eq,
      ← BitVec.toInt_signExtend_of_le hw, BitVec.ofInt_toInt]
  rw [h, BitVec.toNat_ofInt]
  have hpos : (0 : Int) ≤ ((a.toNat : Int) + off.toInt) % (2 ^ w : Nat) := Int.emod_nonneg _ (by positivity)
  rw [Int.toNat_of_nonneg hpos]
  norm_num

theorem effAddr_toNat (s : State) (base : Reg) (off : BitVec 16) :
    ((s.effAddr base off).toNat : Int) = ((s.unsignedW base : Int) + off.toInt) % 2 ^ 32 := by
  unfold State.effAddr
  cases hc : s.cpu with
  | ee =>
    rw [unsignedW_ee base hc, BitVec.toNat_setWidth]
    push_cast
    rw [toNat_add_signExtend (by omega)]
    exact Int.emod_emod_of_dvd _ (by norm_num)
  | iop =>
    rw [unsignedW_iop base hc]
    exact toNat_add_signExtend (by omega) _ _

/-- Clearing bits 3:0 rounds down to a multiple of 16. -/
theorem toNat_clear_low4 (a : Word) : (a &&& 0xFFFFFFF0#32).toNat = a.toNat / 16 * 16 := by
  have h : a &&& 0xFFFFFFF0#32 = (a >>> 4) <<< 4 := by
    apply BitVec.eq_of_getLsbD_eq
    intro j hj
    have mask : ∀ k < 32, (0xFFFFFFF0#32).getLsbD k = !decide (k < 4) := by decide
    rw [BitVec.getLsbD_and, mask j hj, BitVec.getLsbD_shiftLeft, BitVec.getLsbD_ushiftRight]
    by_cases h4 : j < 4
    · simp [h4]
    · simp [h4, hj, show 4 + (j - 4) = j by omega]
  rw [h, BitVec.toNat_shiftLeft, BitVec.toNat_ushiftRight, Nat.shiftRight_eq_div_pow, Nat.shiftLeft_eq]
  have := a.isLt
  omega

/-- Settles O28. -/
theorem effectiveAddressIsBasePlusOffset : Obligations.EffectiveAddressIsBasePlusOffset := fun s base off =>
  ⟨effAddr_toNat s base off, toNat_clear_low4 _⟩

/-! ## The bytes of a read as a value -/

section
variable (m : Memory) (a : Nat)

/-- The low `n` bytes of a read of `n`, byte by byte. -/
theorem extract_setWidth_readLE {n k : Nat} (hk : k < n) (hn : n ≤ 16) :
    ((m.readLE a n).setWidth (8 * n)).extractLsb' (8 * k) 8 = m.read (a + k) := by
  rw [BitVec.extractLsb'_setWidth_of_le (by omega), extract_readLE m a n k hk hn]

theorem readLE_byte : (m.readLE a 1).setWidth 8 = m.read a := by
  simp [Memory.readLE]

theorem readLE_half : (m.readLE a 2).setWidth 16 = m.read (a + 1) ++ m.read a := by
  apply BitVec.eq_of_getLsbD_eq
  intro j hj
  rw [BitVec.getLsbD_setWidth, getLsbD_readLE _ _ _ _ (by omega), BitVec.getLsbD_append]
  by_cases h : j < 8
  · simp [h, hj, show j / 8 = 0 by omega, Nat.mod_eq_of_lt h]
  · simp [h, hj, show j / 8 = 1 by omega, show j % 8 = j - 8 by omega]

theorem readLE_word :
    (m.readLE a 4).setWidth 32 = m.read (a + 3) ++ m.read (a + 2) ++ m.read (a + 1) ++ m.read a := by
  apply BitVec.eq_of_getLsbD_eq
  intro j hj
  rw [BitVec.getLsbD_setWidth, getLsbD_readLE _ _ _ _ (by omega)]
  simp only [BitVec.getLsbD_append]
  by_cases h0 : j < 8
  · simp [h0, hj, show j / 8 = 0 by omega, Nat.mod_eq_of_lt h0]
  by_cases h1 : j < 16
  · simp [h0, hj, show j / 8 = 1 by omega, show j % 8 = j - 8 by omega, show j - 8 < 8 by omega]
  by_cases h2 : j < 24
  · simp [h0, hj, show j / 8 = 2 by omega, show j % 8 = j - 8 - 8 by omega, show ¬ j - 8 < 8 by omega,
      show j - 8 - 8 < 8 by omega]
  · simp [h0, hj, show j / 8 = 3 by omega, show j % 8 = j - 8 - 8 - 8 by omega, show ¬ j - 8 < 8 by omega,
      show ¬ j - 8 - 8 < 8 by omega]

end

/-! ## Loads from a page -/

section
variable {i : Instr} {s : State} {rt : Reg} {va : Word} {n : Nat} {r : Region} {v : Quad}

/-- An EE-only load that writes a doubleword of what it reads. -/
theorem completesWritingEe64_of_load {f : Quad → Dword}
    (h : EeLoadOutcome i s va n fun v u t => EeRegWritten u rt ((u.eeReg rt).extractLsb' 64 64 ++ f v) t)
    (hr : memRead s va n = .value v s) : CompletesWritingEe64 i s rt (f v) :=
  ⟨fun hc => (h.1 hc).1 v s hr, h.2⟩

theorem completesWritingEe128_of_load
    (h : EeLoadOutcome i s va n fun v u t => EeRegWritten u rt v t) (hr : memRead s va n = .value v s) :
    CompletesWritingEe128 i s rt v :=
  ⟨fun hc => (h.1 hc).1 v s hr, h.2⟩

end

/-- An access of 1 or 16 bytes is never misaligned. -/
theorem misalignedFor_one (va : Word) : misalignedFor 1 va = false := misalignedFor_eq_false (by omega)
theorem misalignedFor_sixteen (va : Word) : misalignedFor 16 va = false := misalignedFor_eq_false (by omega)

theorem misalignedFor_of_mod {n : Nat} {va : Word} (h : va.toNat % n = 0) : misalignedFor n va = false :=
  misalignedFor_eq_false fun hn => hn.2 h

/-- Settles O29: each load writes what it reads (O26), and a read of a page gives the page's bytes. -/
theorem loadsFromMemoryComplete : Obligations.LoadsFromMemoryComplete := by
  intro s rt base off r
  obtain ⟨⟨-, lb⟩, ⟨-, lbu⟩, ⟨-, lh⟩, ⟨-, lhu⟩, ⟨-, lw⟩, ⟨-, lwu⟩, ⟨-, lq⟩, ⟨-, ld⟩⟩ :=
    loadsWriteWhatTheyRead s .ee rt base off
  refine ⟨?units, fun hp hc => ?quad⟩
  case quad =>
    exact ⟨_, fun k hk => extract_readLE s.mem _ 16 k hk le_rfl,
      completesWritingEe128_of_load lq (memRead_page (misalignedFor_sixteen _) hp)⟩
  intro hp a m va
  have read1 := memRead_page (misalignedFor_one (s.effAddr base off)) hp
  have read (n : Nat) (ha : va % n = 0) := memRead_page (n := n) (misalignedFor_of_mod ha) hp
  refine ⟨?byte, ?byteU, fun ha => ⟨?half, ?halfU⟩, fun ha => ⟨?word, fun hc => ?wordU⟩, fun ha hc => ?dword⟩
  case byte =>
    have h := lb.1 _ _ read1
    simp only [readLE_byte] at h
    exact h
  case byteU =>
    have h := lbu.1 _ _ read1
    simp only [readLE_byte] at h
    exact h
  case half =>
    have h := lh.1 _ _ (read 2 ha)
    simp only [readLE_half] at h
    exact h
  case halfU =>
    have h := lhu.1 _ _ (read 2 ha)
    simp only [readLE_half] at h
    exact h
  case word =>
    have h := lw.1 _ _ (read 4 ha)
    simp only [readLE_word] at h
    exact h
  case wordU =>
    have h := completesWritingEe64_of_load lwu (read 4 ha)
    rwa [readLE_word] at h
  case dword =>
    exact ⟨_, fun k hk => extract_setWidth_readLE s.mem a hk (by omega),
      completesWritingEe64_of_load ld (read 8 ha)⟩

/-! ## Stores into a page -/

section
variable {i : Instr} {s : State} {va : Word} {n : Nat} {v w : Quad} {r : Region}

/-- A store into a mapped, aligned, writable address stores the low `n` bytes and keeps the canonical form. -/
theorem exec_store_page (hx : exec i s = memWrite s va n w) (hd : s.storesDiscarded = false)
    (hw : r.writable = true) (hm : misalignedFor n va = false) (hp : pageEntry s.cpu (translate s.cpu va) = some r)
    (hv : ∀ k, k < n → w.extractLsb' (8 * k) 8 = v.extractLsb' (8 * k) 8) :
    ∃ t, exec i s = .next t ∧ MemWritten s (regionKey r (translate s.cpu va)) n v t ∧ (s.mem.wf → t.mem.wf) := by
  have written := writeLE_written s (regionKey r (translate s.cpu va)) n w
  exact ⟨_, hx.trans (memWrite_page hd hm hp hw),
    ⟨fun k hk => (written.stored k hk).trans (hv k hk), written.others, written.registers, written.rest⟩,
    fun h => wf_writeLE h _ _ _⟩

end

/-- Truncation to `n` bytes keeps the low `n` bytes. -/
theorem extract_setWidth_setWidth {w : Nat} (x : BitVec w) {n k : Nat} (hk : k < n) :
    ((x.setWidth (8 * n)).setWidth 128).extractLsb' (8 * k) 8 = (x.setWidth 128).extractLsb' (8 * k) 8 := by
  apply BitVec.eq_of_getLsbD_eq
  intro j hj
  simp [hj, show 8 * k + j < 8 * n by omega]

/-- Settles O30: each store is `memWrite` of the low bytes of rt into its page. -/
theorem storesToMemoryComplete : Obligations.StoresToMemoryComplete := by
  intro s rt base off r hd hw
  refine ⟨?units, fun hp hc => ?sq⟩
  case sq =>
    exact exec_store_page (eeOnly_ee hc) hd hw (misalignedFor_sixteen _) hp fun k hk => by rw [storeData_quad hc]
  intro hp a va
  refine ⟨?sb, fun ha => ?sh, fun ha => ?sw, fun ha hc => ?sd⟩
  case sb =>
    exact exec_store_page rfl hd hw (misalignedFor_one _) hp fun k hk => by
      rw [storeData_eq_r32 (by omega)]; exact extract_setWidth_setWidth _ hk
  case sh =>
    exact exec_store_page rfl hd hw (misalignedFor_of_mod ha) hp fun k hk => by
      rw [storeData_eq_r32 (by omega)]; exact extract_setWidth_setWidth _ hk
  case sw =>
    exact exec_store_page rfl hd hw (misalignedFor_of_mod ha) hp fun k hk => by rw [storeData_word]
  case sd =>
    exact exec_store_page (eeOnly_ee hc) hd hw (misalignedFor_of_mod ha) hp fun k hk => by rw [storeData_dword hc]

/-! ## A read after a write -/

theorem toNat_setWidth_setWidth (v : Quad) {n : Nat} (hn : n ≤ 16) :
    ((v.setWidth (8 * n)).setWidth 128).toNat = v.toNat % 2 ^ (8 * n) := by
  rw [BitVec.toNat_setWidth_of_le (by omega), BitVec.toNat_setWidth]

/-- A completed write is aligned, where stores are not discarded. -/
theorem memWrite_aligned {s t : State} {va : Word} {n : Nat} {v : Quad} (hd : s.storesDiscarded = false)
    (h : memWrite s va n v = .next t) : misalignedFor n va = false := by
  by_contra hm
  rw [memWrite_misaligned hd (by simpa using hm)] at h
  cases h

/-- Settles O31: the write and the read are of the same page. -/
theorem loadAfterStoreGivesTheValue : Obligations.LoadAfterStoreGivesTheValue := by
  intro s t va n v r hn hd hp hw h
  have hm := memWrite_aligned hd h
  rw [memWrite_page hd hm hp hw] at h
  obtain rfl := next_inj h
  refine ⟨_, memRead_page hm hp, ?_⟩
  show ((s.mem.writeLE _ n v).readLE _ n).toNat = _
  exact (congrArg _ (readLE_writeLE_same s.mem _ n v)).trans (toNat_setWidth_setWidth v hn)

/-! ## The IOP RAM on both sides (20_memory.md R100, R107) -/

/-- The page of an address is read off the address itself: regions begin and end at pages. -/
theorem regionCovers_iff {r : Region} (hb : 4096 ∣ r.base) (hs : 4096 ∣ r.size) (pa : Word) :
    regionCovers r pa = true ↔ r.base ≤ pa.toNat ∧ pa.toNat < r.base + r.size := by
  obtain ⟨b, hb⟩ := hb
  obtain ⟨n, hn⟩ := hs
  rw [regionCovers, Bool.and_eq_true, decide_eq_true_iff, decide_eq_true_iff, pageStart]
  omega

/-- The IOP RAM's region on each side. -/
def iopRamRegion : Cpu → Region
  | .ee => { base := 0x1C000000, size := 0x00200000, mask := 0x001FFFFF#32, buf := .iopRam, writable := true }
  | .iop => { base := 0x00000000, size := 0x00800000, mask := 0x001FFFFF#32, buf := .iopRam, writable := true }

theorem regionKey_iopRam (c : Cpu) (pa : Word) :
    regionKey (iopRamRegion c) pa = 0x1C000000 + pa.toNat % 0x200000 := by
  cases c <;> exact congrArg (0x1C000000 + ·) (toNat_and_mask pa 0x001FFFFF#32 21 rfl)

theorem pageEntry_iopRam_ee {pa : Word} (h1 : 0x1C000000 ≤ pa.toNat) (h2 : pa.toNat < 0x1C200000) :
    pageEntry .ee pa = some (iopRamRegion .ee) := by
  have eeRam : regionCovers ⟨0x00000000, 0x02000000, 0x01FFFFFF#32, .eeRam, true⟩ pa = false :=
    Bool.eq_false_iff.2 fun h => by
      have bounds := (regionCovers_iff (by norm_num) (by norm_num) pa).1 h
      dsimp only at bounds
      omega
  have iopRam : regionCovers ⟨0x1C000000, 0x00200000, 0x001FFFFF#32, .iopRam, true⟩ pa = true :=
    (regionCovers_iff (by norm_num) (by norm_num) pa).2 ⟨h1, h2⟩
  simp [pageEntry, Config.regions, Config.eeRegions, eeRam, iopRam, iopRamRegion]

theorem pageEntry_iopRam_iop {pa : Word} (h : pa.toNat < 0x00800000) :
    pageEntry .iop pa = some (iopRamRegion .iop) := by
  have iopRam : regionCovers ⟨0x00000000, 0x00800000, 0x001FFFFF#32, .iopRam, true⟩ pa = true :=
    (regionCovers_iff (by norm_num) (by norm_num) pa).2 ⟨Nat.zero_le _, by simpa using h⟩
  simp [pageEntry, Config.regions, Config.iopRegions, iopRam, iopRamRegion]

/-- Settles O32: both sides' pages have the same key, and the addresses the same alignment. -/
theorem iopRamIsSharedWithTheEe : Obligations.IopRamIsSharedWithTheEe := by
  intro s t va va' n mirror v hturn hn hlo hhi hmirror heq h
  have hc : s.cpu = .ee := cpu_of_turn hturn
  have hd : s.storesDiscarded = false := by simp [State.storesDiscarded, hc]
  have hm := memWrite_aligned hd h
  have hp : pageEntry s.cpu (translate s.cpu va) = some (iopRamRegion .ee) := by
    rw [hc]; exact pageEntry_iopRam_ee hlo hhi
  rw [memWrite_page hd hm hp rfl, hc, regionKey_iopRam] at h
  obtain rfl := next_inj h
  have hn16 : n ∣ 16 := by obtain rfl | rfl | rfl := hn <;> norm_num
  have hm' : misalignedFor n va' = false := by
    have hee := translate_mod .ee va n hn16
    have hiop := translate_mod .iop va' n hn16
    have aligned : va.toNat % n = 0 := by
      by_contra hne
      obtain rfl | rfl | rfl := hn
      · omega
      · exact absurd (misalignedFor_iff.2 ⟨by omega, hne⟩) (by simp [hm])
      · exact absurd (misalignedFor_iff.2 ⟨by omega, hne⟩) (by simp [hm])
    apply misalignedFor_of_mod
    obtain rfl | rfl | rfl := hn <;> omega
  have hp' : pageEntry .iop (translate .iop va') = some (iopRamRegion .iop) := pageEntry_iopRam_iop (by omega)
  have hkey :
      regionKey (iopRamRegion .iop) (translate .iop va') = 0x1C000000 + (translate .ee va).toNat % 0x200000 := by
    rw [regionKey_iopRam]; omega
  refine ⟨_, memRead_page hm' hp', ?_⟩
  show (Memory.readLE _ (regionKey _ (translate .iop va')) n).toNat = _
  rw [hkey, readLE_writeLE_same, toNat_setWidth_setWidth v (by omega)]

end Sys2Proof.Machine
end

section
/-! SUPPORT. The returns from an exception, and the statements about ERET, RFE and a system call that returns
(43_system.md R385, R386; 60_exceptions.md R431). -/

namespace Sys2Proof.Machine

/-! ## The pops of Status -/

/-- The pop of ERET moves bits 5:2 to 3:0 and clears bits 5:4 (R385, D11). -/
theorem getLsbD_eretPop_low6 (status : Word) (j : Nat) (hj : j < 32) :
    (eretPop .low6 status).getLsbD j =
      if j < 4 then status.getLsbD (j + 2) else if j < 6 then false else status.getLsbD j := by
  have mask : ∀ k < 32, (0x0000003F#32).getLsbD k = decide (k < 6) := by decide
  have kept : ∀ k < 32, (0x0000000F#32).getLsbD k = decide (k < 4) := by decide
  simp only [eretPop, getLsbD_mergeBits _ _ _ j hj, mask j hj, kept j hj, decide_eq_true_eq, BitVec.getLsbD_and,
    BitVec.getLsbD_ushiftRight, Nat.add_comm 2 j]
  by_cases h4 : j < 4
  · simp [h4, show j < 6 by omega]
  · by_cases h6 : j < 6 <;> simp [h4, h6]

/-- The pop of RFE moves bits 5:2 to 3:0 and keeps bits 5:4 (R386). -/
theorem getLsbD_rfePop (status : Word) (j : Nat) (hj : j < 32) :
    (rfePop status).getLsbD j = if j < 4 then status.getLsbD (j + 2) else status.getLsbD j := by
  have mask : ∀ k < 32, (0x0000000F#32).getLsbD k = decide (k < 4) := by decide
  simp only [rfePop, getLsbD_mergeBits _ _ _ j hj, mask j hj, decide_eq_true_eq, BitVec.getLsbD_ushiftRight,
    Nat.add_comm 2 j]

/-! ## The returns as one write of the control state -/

/-- Status with the level bit that ERET leaves cleared: ERL where it was 1, else EXL. -/
def eretCleared (status : Word) : Word := setBit status (if status.getLsbD 2 then 2 else 1) false

theorem getLsbD_eretCleared (status : Word) (j : Nat) (hj : j < 32) :
    (eretCleared status).getLsbD j =
      if j = (if status.getLsbD 2 then 2 else 1) then false else status.getLsbD j :=
  getLsbD_setBit _ _ _ j hj

section
variable {s : State}

theorem returnFromException_eq (hc : s.cpu = .ee) :
    returnFromException Config.eeEretPop s = s.setCtl { s.ctl with
      status := eretPop .low6 (eretCleared s.ctl.status)
      pc := (if s.ctl.status.getLsbD 2 then s.ee.errorEpc else s.ctl.epc) - 4 } := by
  have cleared : (if s.ee.ctl.status.getLsbD 2 then setBit s.ee.ctl.status 2 false
      else setBit s.ee.ctl.status 1 false) = eretCleared s.ee.ctl.status := by
    unfold eretCleared
    split <;> rfl
  simp only [returnFromException, Config.eeEretPop, cleared, State.setCtl, State.ctl, hc]

theorem restoreFromException_eq (hc : s.cpu = .iop) :
    restoreFromException Config.iopRfeSetsPc s =
      s.setCtl { s.ctl with status := rfePop s.ctl.status, pc := s.ctl.epc - 4 } := by
  simp only [restoreFromException, Config.iopRfeSetsPc, State.setCtl, State.ctl, hc, if_true]

theorem exec_eret (hc : s.cpu = .ee) : exec .eret s =
    outsideSlot s (.next (s.setCtl { s.ctl with
      status := eretPop .low6 (eretCleared s.ctl.status)
      pc := (if s.ctl.status.getLsbD 2 then s.ee.errorEpc else s.ctl.epc) - 4 })) := by
  rw [← returnFromException_eq hc]
  exact onlyOn_same hc

theorem outsideSlot_out {o : Out} (h : s.ctl.inDelaySlot = false) : outsideSlot s o = o := by
  simp only [outsideSlot, h, Bool.false_eq_true, if_false]

end

/-- Settles O39: ERET is one write of the control state, of the popped Status and the target less 4. -/
theorem eretReturns : Obligations.EretReturns := by
  intro s x y z
  refine ⟨by simp [decode_cop0, decodeCop0_coEe, decodeCoEe], fun hc hslot => ?fault, fun hc hslot => ?returns,
    fun hc => onlyOn_other (by simp [hc])⟩
  case fault =>
    rw [exec_eret hc]
    exact if_pos hslot
  case returns =>
    exact ⟨eretCleared s.ctl.status, _, getLsbD_eretCleared _, getLsbD_eretPop_low6 _,
      completes_setCtl ((exec_eret hc).trans (outsideSlot_out hslot))⟩

/-- Settles O40: RFE is one write of the control state, of the popped Status and EPC less 4. -/
theorem rfePopsTheStack : Obligations.RfePopsTheStack := by
  intro s x y z
  refine ⟨by simp [decode_cop0, decodeCop0_coIop, decodeCoIop], fun hc => ⟨_, ?_, getLsbD_rfePop _⟩,
    fun hc => onlyOn_other (by simp [hc])⟩
  apply completes_setCtl
  rw [← restoreFromException_eq hc]
  exact onlyOn_same hc

/-! ## A system call and its return -/

theorem interruptTaken_false_of_ie {s : State} (h : s.ctl.status.getLsbD 0 = false) : s.interruptTaken = false := by
  rw [← Bool.not_eq_true]
  cases hc : s.cpu with
  | ee => rw [interruptTaken_ee hc, h]; simp
  | iop => rw [interruptTaken_iop hc, h]; simp

/-- The Cause field of an entry holds the code of its exception. -/
theorem excCode_causeAtEntry (cause : Word) (slot : Bool) (e : Exc) :
    (causeAtEntry cause slot e).extractLsb' 2 5 = excCode e := by
  apply BitVec.eq_of_getLsbD_eq
  intro j hj
  rw [BitVec.getLsbD_extractLsb', getLsbD_causeAtEntry _ _ _ (2 + j) (by omega), if_neg (by omega),
    if_pos (by omega), BitVec.testBit_toNat]
  simp [hj]

/-- `CountTick` changes no bit of Cause but IP7. -/
theorem getLsbD_cause_countTick (s : State) {j : Nat} (hj : j < 32) (h15 : j ≠ 15) :
    (countTick s).ctl.cause.getLsbD j = s.ctl.cause.getLsbD j := by
  unfold countTick
  cases hc : s.cpu with
  | iop => rfl
  | ee =>
    have hc' : ∀ e : EeCore, ({ s with ee := e } : State).cpu = .ee := fun _ => hc
    simp only [ctl_ee (hc' _)]
    split
    · rw [getLsbD_setBit _ _ _ j hj, if_neg h15]
    · rfl

theorem cause_advance (s : State) : (advance s).ctl.cause = s.ctl.cause := by
  rw [(advanceAppliesThenLatches s).ctl]

/-- Settles O43: the entry masks the check of its own step; ERET leaves IE 0, as EXL was 1 and ERL is not. -/
theorem syscallThenEretComesBack : Obligations.SyscallThenEretComesBack := by
  intro s w code hturn hslot herl hf hd
  have hc : s.cpu = .ee := cpu_of_turn hturn
  let x := doException .syscall .sync s
  have hint : (countTick (advance x)).interruptTaken = false :=
    Bool.eq_false_iff.2 (not_interruptTaken_of_entered (cpu_after_step x) (status_after_step x))
  have hstep : cpuStep s = .next (countTick (advance x)) :=
    cpuStep_of_not_interrupted hf (by rw [hc]; exact hd) rfl hint
  have hstatus : (countTick (advance x)).ctl.status = statusAtEntry .ee s.ctl.status := by
    rw [status_after_step, doException_status, hc]
  have hepc : (countTick (advance x)).ctl.epc = s.pc := by
    rw [countTick_ctl, (advanceAppliesThenLatches x).ctl]
    simp only [x, doException_epc, hslot, Bool.false_eq_true, if_false]
  have hcause : ∀ j < 32, j ≠ 15 → (countTick (advance x)).ctl.cause.getLsbD j =
      (causeAtEntry s.ctl.cause false .syscall).getLsbD j := fun j hj h15 => by
    rw [getLsbD_cause_countTick _ hj h15, cause_advance, doException_cause, hslot]
  have hkept : ∀ j < 32, j ≠ 1 → (statusAtEntry .ee s.ctl.status).getLsbD j = s.ctl.status.getLsbD j :=
    fun j hj h1 => by rw [getLsbD_statusAtEntry_ee _ j hj, if_neg h1]
  refine ⟨_, hstep, ?turn, hepc, ?bd, ?code, ?exl, ?pc, ?back⟩
  case turn =>
    have unmoved : (countTick (advance x)).turn = s.turn := by
      unfold countTick
      split <;> rfl
    exact unmoved.trans hturn
  case bd => rw [hcause 31 (by omega) (by omega), getLsbD_causeAtEntry _ _ _ 31 (by omega), if_pos rfl]
  case code =>
    rw [show (8#5) = excCode .syscall from rfl, ← excCode_causeAtEntry s.ctl.cause false .syscall]
    apply BitVec.eq_of_getLsbD_eq
    intro j hj
    simp only [BitVec.getLsbD_extractLsb', hcause (2 + j) (by omega) (by omega)]
  case exl => rw [hstatus, getLsbD_statusAtEntry_ee _ 1 (by omega), if_pos rfl]
  case pc =>
    rw [pc_after_step, doException_inDelaySlot, doException_sync_pc, hc, excVector_ee_common _ (by simp)]
    simp
  case back =>
    intro u w' huturn huepc hustatus huslot hf' hd'
    have huc : u.cpu = .ee := cpu_of_turn huturn
    have huerl : u.ctl.status.getLsbD 2 = false := by
      rw [hustatus, hstatus, hkept 2 (by omega) (by omega), herl]
    have hx : exec .eret u = .next (u.setCtl { u.ctl with
        status := eretPop .low6 (eretCleared u.ctl.status), pc := s.pc - 4 }) := by
      rw [exec_eret huc, outsideSlot_out huslot, huerl, huepc, hepc]
      rfl
    let v := u.setCtl { u.ctl with status := eretPop .low6 (eretCleared u.ctl.status), pc := s.pc - 4 }
    have hpop : ∀ j < 4, (countTick (advance v)).ctl.status.getLsbD j =
        (eretCleared u.ctl.status).getLsbD (j + 2) := fun j hj => by
      rw [status_after_step, setCtl_ctl, getLsbD_eretPop_low6 _ j (by omega), if_pos hj]
    have hie : (countTick (advance v)).ctl.status.getLsbD 0 = false := by
      rw [hpop 0 (by omega), getLsbD_eretCleared _ 2 (by omega), huerl]
      simp
    refine ⟨_, cpuStep_of_not_interrupted hf' (by rw [huc]; exact hd') hx (interruptTaken_false_of_ie hie), ?_, hie, ?_⟩
    · rw [pc_after_step]
      simp [huslot]
    · rw [hpop 1 (by omega), getLsbD_eretCleared _ 3 (by omega), huerl, hustatus, hstatus, if_neg (by simp),
        hkept 3 (by omega) (by omega)]

end Sys2Proof.Machine
end

section
/-! SUPPORT. What an instruction and a CPU step leave alone, the invariants of the cores and of the driver, and their
statements (10_state.md sections 1, 2, 5 and 6; 60_exceptions.md R446, R580, R583). -/

namespace Sys2Proof.Machine

/-! ## A step runs the decoded instruction (40_control_flow.md R200) -/

/-- Settles O5: the fetched word is the one that the four bytes make. -/
theorem stepRunsDecodedInstruction : Obligations.StepRunsDecodedInstruction := by
  intro s c r i hturn ha hp hd
  obtain rfl := cpu_of_turn hturn
  have hdec : decode s.cpu ((s.mem.readLE (regionKey r (translate s.cpu s.pc)) 4).setWidth 32) = .instr i := by
    rw [readLE_word]
    exact Option.some.inj hd
  have hstep := step_of_fetch hturn (fetch_page ha hp)
  rw [hdec, hturn] at hstep
  exact ⟨fun t ht => by rw [hstep, execDecoded, ht]; rfl, fun f hf => by rw [hstep, execDecoded, hf]; rfl,
    fun x hx => by rw [hstep, execDecoded, hx]; rfl⟩

/-! ## What a completed store leaves alone -/

/-- A completed write changes memory, the devices and the external history only. -/
theorem writeEffect_frame {s t : State} {va : Word} {n : Nat} {v : Quad} (h : WriteEffect s va n v t) :
    { t with
      mem := s.mem
      extWrites := s.extWrites
      eeIntc := s.eeIntc
      eeDmac := s.eeDmac
      eeTimers := s.eeTimers
      iopIntc := s.iopIntc
      iopDmac := s.iopDmac
      iopTimers := s.iopTimers } = s := by
  cases h with
  | discarded => rfl
  | page => rfl
  | eeReg r w t hc hw =>
    have frame := writeEeReg_frame hw
    rw [← frame]
  | iopReg r w t hc hw =>
    have frame := writeIopReg_frame hw
    rw [← frame]
  | external => rfl

section
variable {s t : State} {va : Word} {n : Nat} {v : Quad}

theorem writeEffect_ee (h : WriteEffect s va n v t) : t.ee = s.ee := (congrArg State.ee (writeEffect_frame h) :)
theorem writeEffect_iop (h : WriteEffect s va n v t) : t.iop = s.iop := (congrArg State.iop (writeEffect_frame h) :)
theorem writeEffect_turn (h : WriteEffect s va n v t) : t.turn = s.turn := (congrArg State.turn (writeEffect_frame h) :)

/-- A store of the EE touches no device of the IOP. -/
theorem writeEffect_iopDevices (h : WriteEffect s va n v t) (hc : s.cpu = .ee) :
    t.iopIntc = s.iopIntc ∧ t.iopDmac = s.iopDmac ∧ t.iopTimers = s.iopTimers := by
  cases h with
  | eeReg r w t _ hw =>
    have frame := writeEeReg_frame hw
    exact ⟨(congrArg State.iopIntc frame :), (congrArg State.iopDmac frame :), (congrArg State.iopTimers frame :)⟩
  | iopReg r w t hi => exact absurd (hc.symm.trans hi) (by decide)
  | _ => exact ⟨rfl, rfl, rfl⟩

/-- A store of the IOP touches no device of the EE. -/
theorem writeEffect_eeDevices (h : WriteEffect s va n v t) (hc : s.cpu = .iop) :
    t.eeIntc = s.eeIntc ∧ t.eeDmac = s.eeDmac ∧ t.eeTimers = s.eeTimers := by
  cases h with
  | eeReg r w t he => exact absurd (hc.symm.trans he) (by decide)
  | iopReg r w t _ hw =>
    have frame := writeIopReg_frame hw
    exact ⟨(congrArg State.eeIntc frame :), (congrArg State.eeDmac frame :), (congrArg State.eeTimers frame :)⟩
  | _ => exact ⟨rfl, rfl, rfl⟩

end

theorem accessesMemory_of_isStore {i : Instr} (h : isStore i = true) : accessesMemory i = true := by
  cases i with
  | sb | sh | sw | sd | sq => rfl
  | _ => cases h

/-! ## The frame of one instruction -/

section
variable {i : Instr} {s t : State}

/-- The executing CPU's control state depends on the turn and the two control states alone. -/
theorem ctl_congr (hturn : t.turn = s.turn) (hee : t.ee.ctl = s.ee.ctl) (hiop : t.iop.ctl = s.iop.ctl) :
    t.ctl = s.ctl := by
  simp only [State.ctl, State.cpu, hturn, hee, hiop]

theorem effect_registers (h : Effect i s t) (r : Reg) (hr : r ∉ destinationsOf i) :
    t.eeReg r = s.eeReg r ∧ t.iopReg r = s.iopReg r := by
  cases h with
  | regs _ h => exact regEffect_registers h r hr
  | flow u _ _ _ h => exact regEffect_registers h r hr
  | eeCop0 => exact ⟨rfl, rfl⟩
  | iopCop0 => exact ⟨rfl, rfl⟩
  | store va n v _ _ _ _ h =>
    simp only [State.eeReg, State.iopReg, writeEffect_ee h, writeEffect_iop h, and_self]

theorem effect_hiLo (h : Effect i s t) (hw : writesHiLo i = false) :
    t.ee.hi = s.ee.hi ∧ t.ee.lo = s.ee.lo ∧ t.iop.hi = s.iop.hi ∧ t.iop.lo = s.iop.lo := by
  cases h with
  | regs _ h => exact (regEffect_rest h).1 hw
  | flow u _ _ _ h => exact (regEffect_rest h).1 hw
  | eeCop0 => exact ⟨rfl, rfl, rfl, rfl⟩
  | iopCop0 => exact ⟨rfl, rfl, rfl, rfl⟩
  | store va n v _ _ _ _ h => simp only [writeEffect_ee h, writeEffect_iop h, and_self]

/-- All but the stores leave memory and the devices alone, but for I_CTRL. -/
theorem effect_devices (h : Effect i s t) (hs : isStore i = false) :
    t.mem = s.mem ∧ t.extWrites = s.extWrites ∧ t.eeIntc = s.eeIntc ∧ t.eeDmac = s.eeDmac ∧
      t.iopDmac = s.iopDmac ∧ t.eeTimers = s.eeTimers ∧ t.iopTimers = s.iopTimers ∧
      t.iopIntc.stat = s.iopIntc.stat ∧ t.iopIntc.mask = s.iopIntc.mask := by
  have regs {u : State} (h : RegEffect i s u) : u.mem = s.mem ∧ u.extWrites = s.extWrites ∧ u.eeIntc = s.eeIntc ∧
      u.eeDmac = s.eeDmac ∧ u.iopDmac = s.iopDmac ∧ u.eeTimers = s.eeTimers ∧ u.iopTimers = s.iopTimers ∧
      u.iopIntc.stat = s.iopIntc.stat ∧ u.iopIntc.mask = s.iopIntc.mask := by
    obtain ⟨-, -, -, -, -, -, hmem, hext, heeIntc, heeDmac, hiopDmac, heeTimers, hiopTimers, hstat, hmask, -⟩ :=
      regEffect_rest h
    exact ⟨hmem, hext, heeIntc, heeDmac, hiopDmac, heeTimers, hiopTimers, hstat, hmask⟩
  cases h with
  | regs _ h => exact regs h
  | flow u _ _ _ h => exact (regs h :)
  | eeCop0 => exact ⟨rfl, rfl, rfl, rfl, rfl, rfl, rfl, rfl, rfl⟩
  | iopCop0 => exact ⟨rfl, rfl, rfl, rfl, rfl, rfl, rfl, rfl, rfl⟩
  | store va n v _ hi => exact absurd (hs.symm.trans hi) (by decide)

theorem effect_draws (h : Effect i s t) (ha : accessesMemory i = false) :
    t.iopIntc = s.iopIntc ∧ ((∀ rt rd, i ≠ .mfc0 rt rd) → t.draws = s.draws) := by
  have regs {u : State} (h : RegEffect i s u) :
      u.iopIntc = s.iopIntc ∧ ((∀ rt rd, i ≠ .mfc0 rt rd) → u.draws = s.draws) := by
    obtain ⟨-, -, -, -, -, -, -, -, -, -, -, -, -, -, -, hread, -⟩ := regEffect_rest h
    exact hread ha
  cases h with
  | regs _ h => exact regs h
  | flow u _ _ _ h => exact (regs h :)
  | eeCop0 => exact ⟨rfl, fun _ => rfl⟩
  | iopCop0 => exact ⟨rfl, fun _ => rfl⟩
  | store va n v _ hi => exact absurd (ha.symm.trans (accessesMemory_of_isStore hi)) (by decide)

/-- The driver's position, the scheduler, the input and the DMA history belong to no instruction. -/
theorem effect_position (h : Effect i s t) : t.sched = s.sched ∧ t.extIrq = s.extIrq ∧ t.dmaOut = s.dmaOut ∧
    t.turn = s.turn ∧ t.ticks = s.ticks ∧ t.elapsed = s.elapsed := by
  have regs {u : State} (h : RegEffect i s u) : u.sched = s.sched ∧ u.extIrq = s.extIrq ∧ u.dmaOut = s.dmaOut ∧
      u.turn = s.turn ∧ u.ticks = s.ticks ∧ u.elapsed = s.elapsed := by
    obtain ⟨-, -, -, -, -, -, -, -, -, -, -, -, -, -, -, -, rest⟩ := regEffect_rest h
    exact rest
  cases h with
  | regs _ h => exact regs h
  | flow u _ _ _ h => exact (regs h :)
  | eeCop0 => exact ⟨rfl, rfl, rfl, rfl, rfl, rfl⟩
  | iopCop0 => exact ⟨rfl, rfl, rfl, rfl, rfl, rfl⟩
  | store va n v _ _ _ _ h =>
    have frame := writeEffect_frame h
    exact ⟨(congrArg State.sched frame :), (congrArg State.extIrq frame :), (congrArg State.dmaOut frame :),
      (congrArg State.turn frame :), (congrArg State.ticks frame :), (congrArg State.elapsed frame :)⟩

/-- The register part of an effect touches no control state. -/
theorem regEffect_ctl {u : State} (h : RegEffect i s u) : u.ctl = s.ctl := by
  obtain ⟨-, hee, hiop, -⟩ := regEffect_rest h
  obtain ⟨-, -, -, hturn, -⟩ := effect_position (.regs u h)
  exact ctl_congr hturn hee hiop

theorem effect_status (h : Effect i s t) (hm : mayChangeStatus i = false) :
    t.ctl.status = s.ctl.status ∧ t.ctl.cause = s.ctl.cause ∧ t.ctl.epc = s.ctl.epc ∧
      t.ctl.inDelaySlot = s.ctl.inDelaySlot ∧ t.ee.errorEpc = s.ee.errorEpc ∧ t.ee.count = s.ee.count ∧
      t.ee.compare = s.ee.compare := by
  cases h with
  | regs _ h =>
    obtain ⟨-, -, -, herr, hcount, hcompare, -⟩ := regEffect_rest h
    rw [regEffect_ctl h]
    exact ⟨rfl, rfl, rfl, rfl, herr, hcount, hcompare⟩
  | flow u _ _ _ h =>
    obtain ⟨-, -, -, herr, hcount, hcompare, -⟩ := regEffect_rest h
    rw [setCtl_ctl, regEffect_ctl h]
    exact ⟨rfl, rfl, rfl, rfl, herr, hcount, hcompare⟩
  | eeCop0 _ _ _ _ _ hi => exact absurd (hm.symm.trans hi) (by decide)
  | iopCop0 _ _ hi => exact absurd (hm.symm.trans hi) (by decide)
  | store va n v _ _ _ _ h =>
    have same : t.ctl = s.ctl := ctl_congr (writeEffect_turn h) (by rw [writeEffect_ee h]) (by rw [writeEffect_iop h])
    rw [same, writeEffect_ee h]
    exact ⟨rfl, rfl, rfl, rfl, rfl, rfl, rfl⟩

/-- The span of a store is that of the memory write which is its meaning. -/
theorem exec_of_storeSpan {va : Word} {n : Nat} (hspan : storeSpan i s = some (va, n)) (h : exec i s = .next t) :
    ∃ v, memWrite s va n v = .next t := by
  cases i with
  | sb | sh | sw => cases hspan; exact ⟨_, h⟩
  | sd | sq => cases hspan; exact ⟨_, (eeOnly_eq_next.1 h).2⟩
  | _ => cases hspan

end

/-- Settles O44: every next state of an instruction is one of the shapes of `Effect`; a store's bytes are those of its
memory write. -/
theorem frameOfEveryInstruction : Obligations.FrameOfEveryInstruction := by
  intro i s t h
  have effect := exec_effect h
  refine ⟨effect_registers effect, effect_hiLo effect, effect_devices effect, fun va n hspan => ?_,
    effect_draws effect, effect_status effect, effect_position effect⟩
  obtain ⟨v, hw⟩ := exec_of_storeSpan hspan h
  exact memWrite_memory hw

/-! ## The other side -/

section
variable {i : Instr} {s t : State}

/-- An instruction of the EE leaves the IOP's side alone. -/
theorem effect_iopSide (h : Effect i s t) (hc : s.cpu = .ee) :
    t.iop = s.iop ∧ t.iopIntc = s.iopIntc ∧ t.iopDmac = s.iopDmac ∧ t.iopTimers = s.iopTimers := by
  have regs {u : State} (h : RegEffect i s u) :
      u.iop = s.iop ∧ u.iopIntc = s.iopIntc ∧ u.iopDmac = s.iopDmac ∧ u.iopTimers = s.iopTimers := by
    induction h with
    | same => exact ⟨rfl, rfl, rfl, rfl⟩
    | read u _ h =>
      cases h with
      | same => exact ⟨rfl, rfl, rfl, rfl⟩
      | draw => exact ⟨rfl, rfl, rfl, rfl⟩
      | iCtrl hi => exact absurd (hc.symm.trans hi) (by decide)
    | draw => exact ⟨rfl, rfl, rfl, rfl⟩
    | eeReg _ _ _ _ _ _ ih => exact ih
    | eeHi _ _ _ _ _ ih => exact ih
    | eeLo _ _ _ _ _ ih => exact ih
    | iopReg _ _ _ hi => exact absurd (hc.symm.trans hi) (by decide)
    | iopHi _ _ hi => exact absurd (hc.symm.trans hi) (by decide)
    | iopLo _ _ hi => exact absurd (hc.symm.trans hi) (by decide)
  cases h with
  | regs _ h => exact regs h
  | flow u _ _ _ h =>
    obtain ⟨hiop, rest⟩ := regs h
    have hu : u.cpu = .ee := (regEffect_cpu h).trans hc
    refine ⟨?_, rest⟩
    simp only [State.setCtl, hu, hiop]
  | eeCop0 => exact ⟨rfl, rfl, rfl, rfl⟩
  | iopCop0 _ hi => exact absurd (hc.symm.trans hi) (by decide)
  | store va n v _ _ _ _ h => exact ⟨writeEffect_iop h, writeEffect_iopDevices h hc⟩

/-- An instruction of the IOP leaves the EE's side alone. -/
theorem effect_eeSide (h : Effect i s t) (hc : s.cpu = .iop) :
    t.ee = s.ee ∧ t.eeIntc = s.eeIntc ∧ t.eeDmac = s.eeDmac ∧ t.eeTimers = s.eeTimers := by
  have regs {u : State} (h : RegEffect i s u) :
      u.ee = s.ee ∧ u.eeIntc = s.eeIntc ∧ u.eeDmac = s.eeDmac ∧ u.eeTimers = s.eeTimers := by
    induction h with
    | same => exact ⟨rfl, rfl, rfl, rfl⟩
    | read u _ h => cases h <;> exact ⟨rfl, rfl, rfl, rfl⟩
    | draw => exact ⟨rfl, rfl, rfl, rfl⟩
    | iopReg _ _ _ _ _ _ ih => exact ih
    | iopHi _ _ _ _ _ ih => exact ih
    | iopLo _ _ _ _ _ ih => exact ih
    | eeReg _ _ _ hi => exact absurd (hc.symm.trans hi) (by decide)
    | eeHi _ _ hi => exact absurd (hc.symm.trans hi) (by decide)
    | eeLo _ _ hi => exact absurd (hc.symm.trans hi) (by decide)
  cases h with
  | regs _ h => exact regs h
  | flow u _ _ _ h =>
    obtain ⟨hee, rest⟩ := regs h
    have hu : u.cpu = .iop := (regEffect_cpu h).trans hc
    refine ⟨?_, rest⟩
    simp only [State.setCtl, hu, hee]
  | iopCop0 => exact ⟨rfl, rfl, rfl, rfl⟩
  | eeCop0 _ _ _ _ hi => exact absurd (hc.symm.trans hi) (by decide)
  | store va n v _ _ _ _ h => exact ⟨writeEffect_ee h, writeEffect_eeDevices h hc⟩

theorem effect_cpu (h : Effect i s t) : t.cpu = s.cpu := by
  obtain ⟨-, -, -, hturn, -⟩ := effect_position h
  simp only [State.cpu, hturn]

/-- Steps 5 and 6 of an EE step leave the IOP's side alone. -/
theorem ctlOnly_iopSide (h : CtlOnly s t) (hc : s.cpu = .ee) :
    t.iop = s.iop ∧ t.iopIntc = s.iopIntc ∧ t.iopDmac = s.iopDmac ∧ t.iopTimers = s.iopTimers := by
  cases h with
  | ee => exact ⟨rfl, rfl, rfl, rfl⟩
  | iop _ hi => exact absurd (hc.symm.trans hi) (by decide)

theorem ctlOnly_eeSide (h : CtlOnly s t) (hc : s.cpu = .iop) :
    t.ee = s.ee ∧ t.eeIntc = s.eeIntc ∧ t.eeDmac = s.eeDmac ∧ t.eeTimers = s.eeTimers := by
  cases h with
  | iop => exact ⟨rfl, rfl, rfl, rfl⟩
  | ee _ _ hi => exact absurd (hc.symm.trans hi) (by decide)

end

/-- The end of a tick is a change of position. -/
theorem endTick_eq (s : State) : ∃ a n, endTick s = { s with turn := a, ticks := n } := by
  unfold endTick
  split
  · exact ⟨s.turn, _, rfl⟩
  · exact ⟨_, _, rfl⟩

/-- The step of a CPU is an instruction's effect, then steps 5 and 6, then the end of the tick. -/
theorem step_cpu {s t : State} {c : Cpu} (ht : s.turn = .cpu c) (h : step s = .next t) :
    ∃ i u, Effect i s u ∧ t = endTick (finishStep u) := by
  cases step_cases h with
  | cpu _ i u _ hu => exact ⟨i, u, hu, rfl⟩
  | eeDmac _ ha => simp [ht] at ha
  | eeTimers ha => simp [ht] at ha
  | iopDmac _ ha => simp [ht] at ha
  | iopTimers ha => simp [ht] at ha
  | scheduler ha => simp [ht] at ha
  | fire _ ha => simp [ht] at ha
  | quantum ha => simp [ht] at ha

/-- Settles O45: neither the instruction nor steps 5 and 6 reach the other side. -/
theorem aCpuStepLeavesTheOtherSideAlone : Obligations.ACpuStepLeavesTheOtherSideAlone := by
  intro s t h
  constructor
  · intro hturn
    have hc := cpu_of_turn hturn
    obtain ⟨i, u, hu, rfl⟩ := step_cpu hturn h
    obtain ⟨a, n, hend⟩ := endTick_eq (finishStep u)
    obtain ⟨hiop, hintc, hdmac, htimers⟩ := effect_iopSide hu hc
    obtain ⟨kiop, kintc, kdmac, ktimers⟩ := ctlOnly_iopSide (finishStep_only u) ((effect_cpu hu).trans hc)
    rw [hend]
    exact ⟨kiop.trans hiop, kintc.trans hintc, kdmac.trans hdmac, ktimers.trans htimers⟩
  · intro hturn
    have hc := cpu_of_turn hturn
    obtain ⟨i, u, hu, rfl⟩ := step_cpu hturn h
    obtain ⟨a, n, hend⟩ := endTick_eq (finishStep u)
    obtain ⟨hee, hintc, hdmac, htimers⟩ := effect_eeSide hu hc
    obtain ⟨kee, kintc, kdmac, ktimers⟩ := ctlOnly_eeSide (finishStep_only u) ((effect_cpu hu).trans hc)
    rw [hend]
    exact ⟨kee.trans hee, kintc.trans hintc, kdmac.trans hdmac, ktimers.trans htimers⟩

/-! ## The cores' invariant -/

section
variable {i : Instr} {s t : State}

/-- The invariant looks at the two cores alone. -/
theorem coreInv_congr (hs : s.CoreInv) (hee : t.ee = s.ee) (hiop : t.iop = s.iop) : t.CoreInv :=
  ⟨by rw [hee]; exact hs.eeZero, by rw [hiop]; exact hs.iopZero, by rw [hee]; exact hs.eeCause,
    by rw [hiop]; exact hs.iopCause⟩

theorem regEffect_coreInv {u : State} (h : RegEffect i s u) (hs : s.CoreInv) : u.CoreInv := by
  induction h with
  | same => exact hs
  | read u _ h => cases h <;> exact coreInv_congr hs rfl rfl
  | draw => exact coreInv_congr hs rfl rfl
  | eeReg u rd v _ _ _ ih => exact ⟨by rw [gpr_zero_setEeReg]; exact ih.eeZero, ih.iopZero, ih.eeCause, ih.iopCause⟩
  | iopReg u rd v _ _ _ ih => exact ⟨ih.eeZero, by rw [gpr_zero_setIopReg]; exact ih.iopZero, ih.eeCause, ih.iopCause⟩
  | eeHi _ _ _ _ _ ih => exact ⟨ih.eeZero, ih.iopZero, ih.eeCause, ih.iopCause⟩
  | eeLo _ _ _ _ _ ih => exact ⟨ih.eeZero, ih.iopZero, ih.eeCause, ih.iopCause⟩
  | iopHi _ _ _ _ _ ih => exact ⟨ih.eeZero, ih.iopZero, ih.eeCause, ih.iopCause⟩
  | iopLo _ _ _ _ _ ih => exact ⟨ih.eeZero, ih.iopZero, ih.eeCause, ih.iopCause⟩

theorem ctlOnly_coreInv (h : CtlOnly s t) (hs : s.CoreInv) : t.CoreInv := by
  cases h with
  | ee c n _ hw => exact ⟨hs.eeZero, hs.iopZero, hw hs.eeCause, hs.iopCause⟩
  | iop c _ hw => exact ⟨hs.eeZero, hs.iopZero, hs.eeCause, hw hs.iopCause⟩

theorem effect_coreInv (h : Effect i s t) (hs : s.CoreInv) : t.CoreInv := by
  cases h with
  | regs _ h => exact regEffect_coreInv h hs
  | flow u pc target pending h =>
    exact ctlOnly_coreInv (setCtl_only u { u.ctl with pc := pc, branchTarget := target, branchPending := pending }
      fun _ hw => hw) (regEffect_coreInv h hs)
  | eeCop0 c _ _ _ _ _ hw => exact ⟨hs.eeZero, hs.iopZero, hw hs.eeCause, hs.iopCause⟩
  | iopCop0 c _ _ hw => exact ⟨hs.eeZero, hs.iopZero, hs.eeCause, hw hs.iopCause⟩
  | store va n v _ _ _ _ h => exact coreInv_congr hs (writeEffect_ee h) (writeEffect_iop h)

theorem endTick_coreInv (hs : s.CoreInv) : (endTick s).CoreInv := by
  obtain ⟨a, n, h⟩ := endTick_eq s
  rw [h]
  exact coreInv_congr hs rfl rfl

end

/-- Settles O48: a CPU's step by its effect; no other agent touches a core. -/
theorem stepKeepsTheCores : Obligations.StepKeepsTheCores := by
  intro s t hs h
  cases step_cases h with
  | cpu c i u _ hu => exact endTick_coreInv (ctlOnly_coreInv (finishStep_only u) (effect_coreInv hu hs))
  | eeDmac u _ hu =>
    obtain ⟨d, m, o, n, rfl⟩ := eeDmacTick_only hu
    exact endTick_coreInv (coreInv_congr hs rfl rfl)
  | eeTimers =>
    obtain ⟨v, i, hv⟩ := eeTimersCycle_only s
    rw [hv]
    exact endTick_coreInv (coreInv_congr hs rfl rfl)
  | iopDmac u _ hu =>
    obtain ⟨d, i, m, o, n, rfl⟩ := iopDmacTick_only hu
    exact endTick_coreInv (coreInv_congr hs rfl rfl)
  | iopTimers =>
    obtain ⟨v, i, hv⟩ := iopTimersCycle_only s
    rw [hv]
    exact endTick_coreInv (coreInv_congr hs rfl rfl)
  | scheduler =>
    obtain ⟨e, i, x, q, hv⟩ := schedulerPhase_only s
    rw [hv]
    exact endTick_coreInv (coreInv_congr hs rfl rfl)
  | fire e =>
    obtain ⟨e', i, q, v, hv⟩ := fireEvent_only e s
    rw [hv]
    exact coreInv_congr hs rfl rfl
  | quantum => exact coreInv_congr hs rfl rfl

/-! ## The driver's invariant -/

theorem turnBudget_pos (a : Turn) : 0 < turnBudget a := by
  cases a with
  | cpu c => cases c <;> decide
  | _ => decide

/-- The queue stays sorted under ordered insertion (R581). -/
theorem insertEvent_sorted (e : Event) {q : List Event}
    (h : q.Pairwise (fun e f => e.deadline.toNat ≤ f.deadline.toNat)) :
    (insertEvent e q).Pairwise (fun e f => e.deadline.toNat ≤ f.deadline.toNat) := by
  have mem (q : List Event) : ∀ f, f ∈ insertEvent e q → f = e ∨ f ∈ q := by
    induction q with
    | nil => simp [insertEvent]
    | cons g q ih =>
      intro f hf
      unfold insertEvent at hf
      split at hf
      · rcases List.mem_cons.1 hf with rfl | hf
        · simp
        · rcases ih f hf with rfl | hf <;> simp [*]
      · simpa using hf
  induction q with
  | nil => simp [insertEvent]
  | cons g q ih =>
    obtain ⟨hg, hq⟩ := List.pairwise_cons.1 h
    unfold insertEvent
    split
    next hle =>
      refine List.pairwise_cons.2 ⟨fun f hf => ?_, ih hq⟩
      rcases mem q f hf with rfl | hf
      · exact hle
      · exact hg f hf
    next hlt =>
      refine List.pairwise_cons.2 ⟨fun f hf => ?_, h⟩
      rcases List.mem_cons.1 hf with rfl | hf
      · omega
      · have := hg f hf
        omega

section
variable {s t : State}

/-- The invariant looks at the position and the queue alone. -/
theorem driverInv_congr (hs : s.DriverInv) (hturn : t.turn = s.turn) (hticks : t.ticks = s.ticks)
    (helapsed : t.elapsed = s.elapsed) (hqueue : t.sched.queue = s.sched.queue) : t.DriverInv :=
  ⟨by rw [hturn, hticks]; exact hs.ticks, by rw [helapsed]; exact hs.elapsed, by rw [helapsed]; exact hs.boundary,
    by rw [hqueue]; exact hs.sorted⟩

theorem endTick_driverInv (hs : s.DriverInv) : (endTick s).DriverInv := by
  unfold endTick
  split
  next h => exact ⟨h, hs.elapsed, hs.boundary, hs.sorted⟩
  next => exact ⟨turnBudget_pos _, hs.elapsed, hs.boundary, hs.sorted⟩

theorem endQuantum_driverInv (hs : s.DriverInv) : (endQuantum s).DriverInv := by
  have boundary := hs.boundary
  refine ⟨turnBudget_pos _, ?_, ?_, hs.sorted⟩
  · show (if s.elapsed + Config.quantum < Config.frameCycles then s.elapsed + Config.quantum else 0) < _
    split
    · assumption
    · decide
  · show (if s.elapsed + Config.quantum < Config.frameCycles then s.elapsed + Config.quantum else 0) % _ = 0
    split
    · rw [Nat.add_mod_right]; exact boundary
    · rfl

/-- An event that fires re-schedules itself by one ordered insertion into the rest of the queue. -/
theorem fireEvent_queue (e : Event) (s : State) :
    ∃ f, (fireEvent e s).sched = { s.sched with queue := insertEvent f s.sched.queue.tail } := by
  unfold fireEvent invokeEvent
  split
  · exact ⟨_, rfl⟩
  · exact ⟨_, rfl⟩
  · obtain ⟨v, i, h⟩ := eeTimersHblank_only (State.addEvent
      { s with sched := { s.sched with queue := s.sched.queue.tail } } Config.hblankCycles none .hblank)
    rw [h]
    exact ⟨_, rfl⟩

theorem fireEvent_driverInv (e : Event) (hs : s.DriverInv) : (fireEvent e s).DriverInv := by
  obtain ⟨f, hq⟩ := fireEvent_queue e s
  obtain ⟨e', i, q, v, hv⟩ := fireEvent_only e s
  refine ⟨?_, ?_, ?_, ?_⟩
  · rw [hv]; exact hs.ticks
  · rw [hv]; exact hs.elapsed
  · rw [hv]; exact hs.boundary
  · rw [hq]; exact insertEvent_sorted f hs.sorted.tail

theorem ctlOnly_driverInv (h : CtlOnly s t) (hs : s.DriverInv) : t.DriverInv := by
  cases h <;> exact driverInv_congr hs rfl rfl rfl rfl

end

/-- The scheduler phase moves `now` and takes the input; the queue stays. -/
theorem schedulerPhase_sched (s : State) :
    (schedulerPhase s).sched = { s.sched with now := s.sched.now + BitVec.ofNat 64 Config.quantum } := by
  obtain ⟨e, i, h⟩ := requestAll_only (s.extIrq.headD []) s
  unfold schedulerPhase State.tickScheduler
  rw [h]

/-- Settles O49: an action keeps position and queue but for the scheduler's two turns, and the end of the tick moves
the position within the loop. -/
theorem stepKeepsTheDriverAndQueue : Obligations.StepKeepsTheDriverAndQueue := by
  intro s t hs h
  cases step_cases h with
  | cpu c i u _ hu =>
    obtain ⟨hsched, -, -, hturn, hticks, helapsed⟩ := effect_position hu
    exact endTick_driverInv (ctlOnly_driverInv (finishStep_only u)
      (driverInv_congr hs hturn hticks helapsed (by rw [hsched])))
  | eeDmac u _ hu =>
    obtain ⟨d, m, o, n, rfl⟩ := eeDmacTick_only hu
    exact endTick_driverInv (driverInv_congr hs rfl rfl rfl rfl)
  | eeTimers =>
    obtain ⟨v, i, hv⟩ := eeTimersCycle_only s
    rw [hv]
    exact endTick_driverInv (driverInv_congr hs rfl rfl rfl rfl)
  | iopDmac u _ hu =>
    obtain ⟨d, i, m, o, n, rfl⟩ := iopDmacTick_only hu
    exact endTick_driverInv (driverInv_congr hs rfl rfl rfl rfl)
  | iopTimers =>
    obtain ⟨v, i, hv⟩ := iopTimersCycle_only s
    rw [hv]
    exact endTick_driverInv (driverInv_congr hs rfl rfl rfl rfl)
  | scheduler =>
    have hqueue : (schedulerPhase s).sched.queue = s.sched.queue := by rw [schedulerPhase_sched]
    obtain ⟨e, i, x, q, hv⟩ := schedulerPhase_only s
    rw [hv] at hqueue ⊢
    exact endTick_driverInv (driverInv_congr hs rfl rfl rfl hqueue)
  | fire e => exact fireEvent_driverInv e hs
  | quantum => exact endQuantum_driverInv hs

end Sys2Proof.Machine
end

section
/-! SUPPORT. The device registers stay within what their tables store: one lemma per way an element of a device is
written, then each agent's turn, and the statement (60_exceptions.md R460, R482, R483, R490 to R497, R521 to R525, R541,
R544, R570 to R573). -/

namespace Sys2Proof.Machine

/-! ## The parts of the invariant -/

section
variable {s t : State}

/-- The invariant looks at the DMACs, the timers and I_STAT alone. -/
theorem deviceInv_congr (hs : s.DeviceInv) (heeDmac : t.eeDmac = s.eeDmac) (hiopDmac : t.iopDmac = s.iopDmac)
    (hstat : t.iopIntc.stat = s.iopIntc.stat) (heeTimers : t.eeTimers = s.eeTimers)
    (hiopTimers : t.iopTimers = s.iopTimers) : t.DeviceInv where
  eeChannels ch := by rw [State.eeChannel, heeDmac]; exact hs.eeChannels ch
  iopChannels ch := by rw [State.iopChannel, hiopDmac]; exact hs.iopChannels ch
  dStat := by rw [heeDmac]; exact hs.dStat
  dicr := by rw [hiopDmac]; exact hs.dicr
  dicr2 := by rw [hiopDmac]; exact hs.dicr2
  iopStat := by rw [hstat]; exact hs.iopStat
  eeTimers n := by rw [State.eeTimer, heeTimers]; exact hs.eeTimers n
  iopTimers n := by rw [State.iopTimer, hiopTimers]; exact hs.iopTimers n

theorem setEeChannel_deviceInv (hs : s.DeviceInv) (ch : Fin 10) {c : EeChannel} (hc : c.Inv) :
    (s.setEeChannel ch c).DeviceInv where
  eeChannels ch' := by
    rw [eeChannel_setEeChannel]
    split
    · exact hc
    · exact hs.eeChannels ch'
  iopChannels := hs.iopChannels
  dStat := hs.dStat
  dicr := hs.dicr
  dicr2 := hs.dicr2
  iopStat := hs.iopStat
  eeTimers := hs.eeTimers
  iopTimers := hs.iopTimers

theorem setIopChannel_deviceInv (hs : s.DeviceInv) (ch : Fin 13) {c : IopChannel} (hc : c.Inv) :
    (s.setIopChannel ch c).DeviceInv where
  eeChannels := hs.eeChannels
  iopChannels ch' := by
    rw [iopChannel_setIopChannel]
    split
    · exact hc
    · exact hs.iopChannels ch'
  dStat := hs.dStat
  dicr := hs.dicr
  dicr2 := hs.dicr2
  iopStat := hs.iopStat
  eeTimers := hs.eeTimers
  iopTimers := hs.iopTimers

theorem setEeTimer_deviceInv (hs : s.DeviceInv) (n : Fin 4) {u : EeTimer} (hu : u.Inv) :
    (s.setEeTimer n u).DeviceInv where
  eeChannels := hs.eeChannels
  iopChannels := hs.iopChannels
  dStat := hs.dStat
  dicr := hs.dicr
  dicr2 := hs.dicr2
  iopStat := hs.iopStat
  eeTimers n' := by
    rw [eeTimer_setEeTimer]
    split
    · exact hu
    · exact hs.eeTimers n'
  iopTimers := hs.iopTimers

theorem setIopTimer_deviceInv (hs : s.DeviceInv) {n : Fin 6} {u : IopTimer} (hu : u.Inv n) :
    (s.setIopTimer n u).DeviceInv where
  eeChannels := hs.eeChannels
  iopChannels := hs.iopChannels
  dStat := hs.dStat
  dicr := hs.dicr
  dicr2 := hs.dicr2
  iopStat := hs.iopStat
  eeTimers := hs.eeTimers
  iopTimers n' := by
    rw [iopTimer_setIopTimer]
    split
    next h => exact h ▸ hu
    next => exact hs.iopTimers n'

theorem setDStat_deviceInv (hs : s.DeviceInv) {d : Word} (hd : Within 0x63FFE3FF#32 d) :
    State.DeviceInv { s with eeDmac := { s.eeDmac with dStat := d } } where
  eeChannels := hs.eeChannels
  iopChannels := hs.iopChannels
  dStat := hd
  dicr := hs.dicr
  dicr2 := hs.dicr2
  iopStat := hs.iopStat
  eeTimers := hs.eeTimers
  iopTimers := hs.iopTimers

theorem setDicr_deviceInv (hs : s.DeviceInv) {d : Word} (hd : Within 0x7FFFFFFF#32 d) :
    State.DeviceInv { s with iopDmac := { s.iopDmac with dicr := d } } where
  eeChannels := hs.eeChannels
  iopChannels := hs.iopChannels
  dStat := hs.dStat
  dicr := hd
  dicr2 := hs.dicr2
  iopStat := hs.iopStat
  eeTimers := hs.eeTimers
  iopTimers := hs.iopTimers

theorem setDicr2_deviceInv (hs : s.DeviceInv) {d : Word} (hd : Within 0x3FFFFFFF#32 d) :
    State.DeviceInv { s with iopDmac := { s.iopDmac with dicr2 := d } } where
  eeChannels := hs.eeChannels
  iopChannels := hs.iopChannels
  dStat := hs.dStat
  dicr := hs.dicr
  dicr2 := hd
  iopStat := hs.iopStat
  eeTimers := hs.eeTimers
  iopTimers := hs.iopTimers

/-- A control register of the EE DMAC without reserved bits. -/
theorem setEeDmac_deviceInv (hs : s.DeviceInv) {d : EeDmac} (hch : d.ch = s.eeDmac.ch)
    (hstat : d.dStat = s.eeDmac.dStat) : State.DeviceInv { s with eeDmac := d } where
  eeChannels ch := by
    show (d.ch[ch.val]).Inv
    rw [hch]
    exact hs.eeChannels ch
  iopChannels := hs.iopChannels
  dStat := hstat ▸ hs.dStat
  dicr := hs.dicr
  dicr2 := hs.dicr2
  iopStat := hs.iopStat
  eeTimers := hs.eeTimers
  iopTimers := hs.iopTimers

theorem setIopStat_deviceInv (hs : s.DeviceInv) {i : IopIntc} (hi : Within 0x03FFFFFF#32 i.stat) :
    State.DeviceInv { s with iopIntc := i } where
  eeChannels := hs.eeChannels
  iopChannels := hs.iopChannels
  dStat := hs.dStat
  dicr := hs.dicr
  dicr2 := hs.dicr2
  iopStat := hi
  eeTimers := hs.eeTimers
  iopTimers := hs.iopTimers

/-- A bit named by the mask. -/
theorem within_bit {mask : Word} {i : Nat} (h : mask.getLsbD i = true) : Within mask (1#32 <<< i) := by
  have bit := within_setBit (b := true) (show Within mask 0 by simp [Within]) h
  simpa [setBit] using bit

/-- I_STAT has 26 sources (R460). -/
theorem requestIop_deviceInv (hs : s.DeviceInv) {i : Nat} (hi : i < 26) : (s.requestIop i).DeviceInv := by
  have bits : ∀ i < 26, (0x03FFFFFF#32).getLsbD i = true := by decide
  exact setIopStat_deviceInv hs (within_or hs.iopStat (within_bit (bits i hi)))

theorem requestEe_deviceInv (hs : s.DeviceInv) (i : Nat) : (s.requestEe i).DeviceInv :=
  deviceInv_congr hs rfl rfl rfl rfl rfl

theorem iopDmaLineUpdate_deviceInv (hs : s.DeviceInv) : s.iopDmaLineUpdate.DeviceInv := by
  unfold State.iopDmaLineUpdate
  split
  · exact requestIop_deviceInv hs (by omega)
  · exact hs

end

/-! ## EE channels: the registers (R482, R490 to R497) -/

/-- An address register holds a multiple of 16. -/
theorem within_eeAddrMask_iff (v : Word) : Within eeAddrMask v ↔ v.toNat % 16 = 0 := by
  have low : (v &&& ~~~eeAddrMask).toNat = v.toNat % 16 := toNat_and_mask v 0xF#32 4 rfl
  rw [Within, ← low, ← BitVec.toNat_inj]
  rfl

theorem within_eeAddrMask_add {a b : Word} (ha : Within eeAddrMask a) (hb : Within eeAddrMask b) :
    Within eeAddrMask (a + b) := by
  rw [within_eeAddrMask_iff] at ha hb ⊢
  rw [BitVec.toNat_add]
  omega

theorem within_eeAddrMask_next {a : Word} (ha : Within eeAddrMask a) : Within eeAddrMask (a + 16) :=
  within_eeAddrMask_add ha rfl

/-- The length of a tag's data is a multiple of 16 bytes. -/
theorem within_eeAddrMask_length (v : Word) : Within eeAddrMask (v <<< 4) := by
  rw [within_eeAddrMask_iff, BitVec.toNat_shiftLeft, Nat.shiftLeft_eq]
  omega

theorem within_masked {w : Nat} (mask v : BitVec w) : Within mask (v &&& mask) :=
  within_and (by simp [Within])

section
variable {c d : EeChannel}

/-- The phase may change where the start bit stays set. -/
theorem EeChannel.Inv.withPhase (h : c.Inv) (hstr : c.phase ≠ .idle) {p : DmaPhase} (hp : p ≠ .idle) (e : Bool) :
    EeChannel.Inv { c with phase := p, chainEnd := e } :=
  { h with
    phase := by
      have : c.chcr.getLsbD 8 ≠ false := fun hc => hstr (h.phase.2 hc)
      simp [hp, this] }

/-- CHCR's bits but the start bit may change. -/
theorem EeChannel.Inv.withChcr (h : c.Inv) {m new : Word} (hm : Within 0xFFFF01FD#32 m) (h8 : m.getLsbD 8 = false) :
    EeChannel.Inv { c with chcr := mergeBits m c.chcr new } :=
  { h with
    chcr := within_mergeBits h.chcr hm
    phase := by
      rw [getLsbD_mergeBits _ _ _ 8 (by omega), h8, if_neg Bool.false_ne_true]
      exact h.phase }

theorem eeSetAsp_inv (h : c.Inv) (asp : BitVec 2) : EeChannel.Inv { c with chcr := eeSetAsp c.chcr asp } :=
  h.withChcr rfl (by decide)

theorem eeLoadTag_inv (h : c.Inv) (tag : Quad) : (eeLoadTag c tag).Inv :=
  { h.withChcr (m := 0xFFFF0000#32) (new := tag.extractLsb' 0 32) rfl (by decide) with }

/-- Every ID leaves multiples of 16 in the address registers, and the phase to the tick. -/
theorem eeApplyTag_inv (h : c.Inv) {id : BitVec 3} {addr : Word} (ha : Within eeAddrMask addr)
    (hd : eeApplyTag c id addr = some d) : d.Inv ∧ d.phase = c.phase := by
  have next := within_eeAddrMask_next h.tadr
  have after := within_eeAddrMask_add next (within_eeAddrMask_length (c.qwc.setWidth 32))
  unfold eeApplyTag at hd
  simp only at hd
  split at hd
  case h_6 =>
    split at hd
    · cases hd; exact ⟨{ eeSetAsp_inv h 1 with madr := next, tadr := ha, asr0 := after }, rfl⟩
    · cases hd; exact ⟨{ eeSetAsp_inv h 2 with madr := next, tadr := ha, asr1 := after }, rfl⟩
    · cases hd
  case h_7 =>
    split at hd
    · cases hd; exact ⟨{ h with madr := next }, rfl⟩
    · cases hd; exact ⟨{ eeSetAsp_inv h 0 with madr := next, tadr := h.asr0 }, rfl⟩
    · cases hd; exact ⟨{ eeSetAsp_inv h 1 with madr := next, tadr := h.asr1 }, rfl⟩
    · cases hd
  case h_1 => cases hd; exact ⟨{ h with madr := ha, tadr := next }, rfl⟩
  case h_2 => cases hd; exact ⟨{ h with madr := next, tadr := after }, rfl⟩
  case h_3 => cases hd; exact ⟨{ h with madr := next, tadr := ha }, rfl⟩
  case h_4 => cases hd; exact ⟨{ h with madr := ha, tadr := next }, rfl⟩
  case h_5 => cases hd; exact ⟨{ h with madr := ha, tadr := next }, rfl⟩
  case h_8 => cases hd; exact ⟨{ h with madr := next }, rfl⟩

end

/-! ## EE channels: writes and ticks -/

section
variable {s t : State} {ch : Fin 10}

theorem writeEeChcr_deviceInv {v : Word} (hs : s.DeviceInv) (h : writeEeChcr ch v s = .next t) : t.DeviceInv := by
  have hc := hs.eeChannels ch
  have started (p : DmaPhase) (e : Bool) (hp : p ≠ .idle) (hstr : eeStr (v &&& eeChcrMask) = true) :
      EeChannel.Inv { s.eeChannel ch with chcr := v &&& eeChcrMask, chainEnd := e, phase := p } :=
    { hc with
      chcr := within_masked _ _
      phase := iff_of_false hp (by rw [Bool.eq_false_iff, not_not]; exact hstr) }
  unfold writeEeChcr at h
  simp only at h
  split at h
  case isTrue hstop =>
    cases h
    exact setEeChannel_deviceInv hs ch { hc with chcr := within_masked _ _, phase := iff_of_true rfl hstop }
  case isFalse hstr =>
    rw [Bool.not_eq_false] at hstr
    split at h
    case isTrue hrunning =>
      cases h
      have hphase : (s.eeChannel ch).phase ≠ .idle := fun hi =>
        Bool.eq_false_iff.1 (hc.phase.1 hi) hrunning
      exact setEeChannel_deviceInv hs ch (started _ _ hphase hstr)
    case isFalse =>
      split at h
      · cases h
      · split at h
        · cases h; exact setEeChannel_deviceInv hs ch (started _ _ (by decide) hstr)
        · split at h
          · cases h
            exact setEeChannel_deviceInv hs ch (started _ _ (by split <;> decide) hstr)
          · cases h
        · cases h
        · cases h

theorem eeComplete_deviceInv (hs : s.DeviceInv) : (eeComplete ch s).DeviceInv := by
  have bits : ∀ ch : Fin 10, (0x63FFE3FF#32).getLsbD ch.val = true := by decide
  have stopped : EeChannel.Inv
      { s.eeChannel ch with chcr := setBit (s.eeChannel ch).chcr 8 false, phase := .idle } :=
    { hs.eeChannels ch with
      chcr := within_setBit (hs.eeChannels ch).chcr (by decide)
      phase := iff_of_true rfl (by rw [getLsbD_setBit _ _ _ 8 (by omega), if_pos rfl]) }
  exact setDStat_deviceInv (setEeChannel_deviceInv hs ch stopped) (within_setBit hs.dStat (bits ch))

theorem eeCheckDone_deviceInv (hs : s.DeviceInv) (hrun : (s.eeChannel ch).phase ≠ .idle) :
    (eeCheckDone ch s).DeviceInv := by
  unfold eeCheckDone
  simp only
  split
  · split
    · exact eeComplete_deviceInv hs
    · exact setEeChannel_deviceInv hs ch ((hs.eeChannels ch).withPhase hrun (by decide) _)
  · exact hs

/-- A quadword moved writes SADR at most. -/
theorem eeMoveQuad_deviceInv (hs : s.DeviceInv) (h : eeMoveQuad ch s = .next t) : t.DeviceInv := by
  have memory (m : Memory) : State.DeviceInv { s with mem := m } := deviceInv_congr hs rfl rfl rfl rfl rfl
  have sadr : EeChannel.Inv { s.eeChannel ch with sadr := nextSadr (s.eeChannel ch).sadr } :=
    { hs.eeChannels ch with sadr := within_masked _ _ }
  unfold eeMoveQuad at h
  simp only at h
  split at h
  · obtain ⟨u, hu, hn⟩ := andThen_eq_next.1 h
    obtain ⟨k, -, rfl⟩ := dmaWrite16_next hu
    cases hn
    exact setEeChannel_deviceInv (memory _) ch sadr
  · obtain ⟨q, u, hu, hn⟩ := useLoaded_eq_next.1 h
    obtain ⟨rfl, -⟩ := dmaRead16_value hu
    cases hn
    exact setEeChannel_deviceInv (memory _) ch sadr
  · split at h
    · obtain ⟨q, u, hu, hn⟩ := useLoaded_eq_next.1 h
      obtain ⟨rfl, -⟩ := dmaRead16_value hu
      cases hn
      exact deviceInv_congr hs rfl rfl rfl rfl rfl
    · obtain ⟨k, -, rfl⟩ := dmaWrite16_next h
      exact deviceInv_congr hs rfl rfl rfl rfl rfl

theorem eeActiveTick_deviceInv (hs : s.DeviceInv) (hrun : (s.eeChannel ch).phase ≠ .idle)
    (h : eeActiveTick ch s = .next t) : t.DeviceInv := by
  unfold eeActiveTick at h
  split at h
  · cases h
    exact eeCheckDone_deviceInv hs hrun
  · rw [portReady_always] at h
    obtain ⟨u, hu, hn⟩ := andThen_eq_next.1 h
    cases hn
    obtain ⟨⟨a, hmoved⟩, -⟩ := eeMoveQuad_keepsTransfer hu
    have hu := eeMoveQuad_deviceInv hs hu
    have advanced : (eeAdvance ch u).DeviceInv :=
      setEeChannel_deviceInv hu ch { hu.eeChannels ch with madr := within_eeAddrMask_next (hu.eeChannels ch).madr }
    refine eeCheckDone_deviceInv advanced ?_
    simpa [eeAdvance, hmoved] using hrun

theorem eeTagTick_deviceInv {tag : Quad} (hs : s.DeviceInv) (hrun : (s.eeChannel ch).phase ≠ .idle)
    (h : eeTagTick ch tag s = .next t) : t.DeviceInv := by
  unfold eeTagTick at h
  simp only at h
  split at h
  case h_1 => cases h
  case h_2 d hd =>
    cases h
    obtain ⟨hinv, hphase⟩ := eeApplyTag_inv (eeLoadTag_inv (hs.eeChannels ch) tag) (within_masked _ _) hd
    have emitted (b : Bool) : State.DeviceInv (if b then s.emitDma (.quad ch.val tag) else s) := by
      cases b
      · exact hs
      · exact deviceInv_congr hs rfl rfl rfl rfl rfl
    exact setEeChannel_deviceInv (emitted _) ch (hinv.withPhase (by rw [hphase]; exact hrun) (by decide) _)

theorem eeChannelTick_deviceInv (hs : s.DeviceInv) (h : eeChannelTick ch s = .next t) : t.DeviceInv := by
  unfold eeChannelTick at h
  simp only at h
  split at h
  · cases h; exact hs
  · split at h
    case h_1 => cases h; exact hs
    case h_2 hphase => exact eeActiveTick_deviceInv hs (by simp [hphase]) h
    case h_3 hphase =>
      obtain ⟨q, u, hu, hn⟩ := useLoaded_eq_next.1 h
      obtain ⟨rfl, -⟩ := dmaRead16_value hu
      exact eeTagTick_deviceInv hs (by simp [hphase]) hn

theorem eeChannelsTick_deviceInv {chs : List (Fin 10)} (hs : s.DeviceInv) (h : eeChannelsTick chs s = .next t) :
    t.DeviceInv := by
  induction chs generalizing s with
  | nil => cases h; exact hs
  | cons ch chs ih =>
    obtain ⟨u, hu, hn⟩ := andThen_eq_next.1 h
    exact ih (eeChannelTick_deviceInv hs hu) hn

/-- A control register's write: CHCR by its rules, the others within their masks (R481 to R483). -/
theorem writeEeReg_deviceInv {r : EeReg} {v : Word} (hs : s.DeviceInv) (h : writeEeReg r v s = .next t) :
    t.DeviceInv := by
  cases r with
  | tCount n => cases h; exact setEeTimer_deviceInv hs n (hs.eeTimers n)
  | tComp n => cases h; exact setEeTimer_deviceInv hs n (hs.eeTimers n)
  | tHold n => cases h; exact setEeTimer_deviceInv hs n (hs.eeTimers n)
  | tMode n =>
    simp only [writeEeReg, writeTMode] at h
    split at h
    case isTrue => cases h
    case isFalse hgate =>
      rw [Bool.not_eq_true] at hgate
      cases h
      refine setEeTimer_deviceInv hs n (within_iff.2 fun j hj hb => ?_)
      have mask : ∀ j < 32, (0x00000FFB#32).getLsbD j =
          (decide (j ≠ 2) && ((0x000003FF#32).getLsbD j || (0x00000C00#32).getLsbD j)) := by decide
      rw [← BitVec.getLsbD_eq_getElem hj, mask j hj]
      have hb : (v.getLsbD j && (0x000003FF#32).getLsbD j ||
          ((s.eeTimer n).mode.getLsbD j && !v.getLsbD j && (0x00000C00#32).getLsbD j)) = true := by
        simpa [BitVec.getLsbD_eq_getElem hj] using hb
      by_cases h2 : j = 2
      · subst h2
        rw [hgate, show (0x00000C00#32).getLsbD 2 = false from rfl, Bool.and_false, Bool.or_false] at hb
        cases hb
      · simp only [h2, ne_eq, not_false_iff, decide_true, Bool.true_and]
        revert hb
        cases (0x000003FF#32).getLsbD j <;> simp +contextual
  | chcr ch => exact writeEeChcr_deviceInv hs h
  | madr ch => cases h; exact setEeChannel_deviceInv hs ch { hs.eeChannels ch with madr := within_masked _ _ }
  | qwc ch => cases h; exact setEeChannel_deviceInv hs ch { hs.eeChannels ch with }
  | tadr ch => cases h; exact setEeChannel_deviceInv hs ch { hs.eeChannels ch with tadr := within_masked _ _ }
  | asr0 ch => cases h; exact setEeChannel_deviceInv hs ch { hs.eeChannels ch with asr0 := within_masked _ _ }
  | asr1 ch => cases h; exact setEeChannel_deviceInv hs ch { hs.eeChannels ch with asr1 := within_masked _ _ }
  | sadr ch => cases h; exact setEeChannel_deviceInv hs ch { hs.eeChannels ch with sadr := within_masked _ _ }
  | dStat =>
    cases h
    exact setDStat_deviceInv hs (within_xor (within_of_within_left hs.dStat) (within_and rfl))
  | dCtrl | dPcr | dSqwc | dRbsr | dRbor | dEnablew => cases h; exact setEeDmac_deviceInv hs rfl rfl
  | dEnabler => cases h; exact hs
  | intcStat | intcMask => cases h; exact deviceInv_congr hs rfl rfl rfl rfl rfl

end

/-! ## IOP channels -/

section
variable {s t : State} {ch : Fin 13}

theorem writeIopChcr_deviceInv {v : Word} (hs : s.DeviceInv) (h : writeIopChcr ch v s = .next t) :
    t.DeviceInv := by
  have hc := hs.iopChannels ch
  have active {c : IopChannel} (hstart : c.chcr.getLsbD 24 = true) (hphase : c.phase = .active) : c.Inv := by
    rw [IopChannel.Inv, if_pos hstart, hphase]
  unfold writeIopChcr at h
  simp only at h
  split at h
  case isTrue hstop =>
    cases h
    have hidle : IopChannel.Inv { s.iopChannel ch with chcr := v, phase := .idle } :=
      (if_neg (Bool.eq_false_iff.1 hstop)).symm
    exact setIopChannel_deviceInv hs ch hidle
  case isFalse hstart =>
    rw [Bool.not_eq_false] at hstart
    split at h
    case isTrue hrunning =>
      cases h
      exact setIopChannel_deviceInv hs ch (active hstart (hc.trans (if_pos hrunning)))
    case isFalse =>
      split at h
      · cases h
      · split at h
        · cases h; exact setIopChannel_deviceInv hs ch (active hstart rfl)
        · cases h; exact setIopChannel_deviceInv hs ch (active hstart rfl)
        · cases h

theorem setIopDmaFlag_deviceInv (hs : s.DeviceInv) : (s.setIopDmaFlag ch).DeviceInv := by
  have low : ∀ ch : Fin 13, ch.val ≤ 6 → (0x7FFFFFFF#32).getLsbD (24 + ch.val) = true := by decide
  have high : ∀ ch : Fin 13, ¬ ch.val ≤ 6 → (0x3FFFFFFF#32).getLsbD (24 + ch.val - 7) = true := by decide
  unfold State.setIopDmaFlag
  split
  next hch => exact setDicr_deviceInv hs (within_setBit hs.dicr (low ch hch))
  next hch => exact setDicr2_deviceInv hs (within_setBit hs.dicr2 (high ch hch))

theorem iopComplete_deviceInv (hs : s.DeviceInv) : (iopComplete ch s).DeviceInv := by
  have hstr : (setBit (setBit (s.iopChannel ch).chcr 24 false) 28 false).getLsbD 24 = false := by
    rw [getLsbD_setBit _ _ _ 24 (by omega), if_neg (by omega), getLsbD_setBit _ _ _ 24 (by omega), if_pos rfl]
  have stopped : IopChannel.Inv { s.iopChannel ch with
      chcr := setBit (setBit (s.iopChannel ch).chcr 24 false) 28 false, phase := .idle } :=
    (if_neg (Bool.eq_false_iff.1 hstr)).symm
  exact iopDmaLineUpdate_deviceInv (setIopDmaFlag_deviceInv (setIopChannel_deviceInv hs ch stopped))

theorem iopCheckDone_deviceInv (hs : s.DeviceInv) : (iopCheckDone ch s).DeviceInv := by
  unfold iopCheckDone
  split
  · exact iopComplete_deviceInv hs
  · exact hs

theorem iopMoveWord_deviceInv (hs : s.DeviceInv) (h : iopMoveWord ch s = .next t) : t.DeviceInv := by
  unfold iopMoveWord dmaRead4 dmaWrite4 at h
  simp only at h
  split at h
  · split at h
    · cases h; exact deviceInv_congr hs rfl rfl rfl rfl rfl
    · cases h
  · split at h
    · cases h; exact deviceInv_congr hs rfl rfl rfl rfl rfl
    · cases h

theorem iopActiveTick_deviceInv (hs : s.DeviceInv) (h : iopActiveTick ch s = .next t) : t.DeviceInv := by
  unfold iopActiveTick at h
  split at h
  · cases h
    exact iopCheckDone_deviceInv hs
  · rw [portReady_always] at h
    obtain ⟨u, hu, hn⟩ := andThen_eq_next.1 h
    cases hn
    have hu := iopMoveWord_deviceInv hs hu
    exact iopCheckDone_deviceInv (setIopChannel_deviceInv hu ch (hu.iopChannels ch))

theorem iopChannelTick_deviceInv (hs : s.DeviceInv) (h : iopChannelTick ch s = .next t) : t.DeviceInv := by
  unfold iopChannelTick at h
  simp only at h
  split at h
  · cases h; exact hs
  · split at h
    · exact iopActiveTick_deviceInv hs h
    · cases h; exact hs

theorem iopChannelsTick_deviceInv {chs : List (Fin 13)} (hs : s.DeviceInv) (h : iopChannelsTick chs s = .next t) :
    t.DeviceInv := by
  induction chs generalizing s with
  | nil => cases h; exact hs
  | cons ch chs ih =>
    obtain ⟨u, hu, hn⟩ := andThen_eq_next.1 h
    exact ih (iopChannelTick_deviceInv hs hu) hn

end

/-! ## Timers -/

section
variable {s t : State}

/-- The flags of an EE timer are among the bits of T_MODE. -/
theorem eeTimerFlag_deviceInv (hs : s.DeviceInv) {n : Fin 4} {enable flag : Nat}
    (hflag : (0x00000FFB#32).getLsbD flag = true) : (eeTimerFlag n enable flag s).DeviceInv := by
  have flagged : EeTimer.Inv { s.eeTimer n with mode := setBit (s.eeTimer n).mode flag true } :=
    within_setBit (hs.eeTimers n) hflag
  unfold eeTimerFlag
  simp only
  split
  · exact requestEe_deviceInv (setEeTimer_deviceInv hs n flagged) _
  · exact hs

theorem eeTimerIncrement_deviceInv (hs : s.DeviceInv) (n : Fin 4) : (eeTimerIncrement n s).DeviceInv := by
  have equal {u : State} (hu : u.DeviceInv) : (eeTimerEqual n u).DeviceInv := by
    have flagged := eeTimerFlag_deviceInv (n := n) (enable := 8) hu (flag := 10) (by decide)
    unfold eeTimerEqual
    simp only
    split
    · exact setEeTimer_deviceInv flagged n (flagged.eeTimers n)
    · exact flagged
  have counted (c : BitVec 16) : (s.setEeTimer n { s.eeTimer n with count := c }).DeviceInv :=
    setEeTimer_deviceInv hs n (hs.eeTimers n)
  have compared (b : Prop) [Decidable b] {u : State} (hu : u.DeviceInv) :
      State.DeviceInv (if b then eeTimerEqual n u else u) := by
    split
    · exact equal hu
    · exact hu
  have overflown (b : Bool) {u : State} (hu : u.DeviceInv) :
      State.DeviceInv (if b then eeTimerFlag n 9 11 u else u) := by
    split
    · exact eeTimerFlag_deviceInv hu (by decide)
    · exact hu
  exact overflown _ (compared _ (counted _))

theorem eeTimerCycle_deviceInv (hs : s.DeviceInv) (n : Fin 4) : (eeTimerCycle n s).DeviceInv := by
  have prescaled (p : Nat) : (s.setEeTimer n { s.eeTimer n with pre := p }).DeviceInv :=
    setEeTimer_deviceInv hs n (hs.eeTimers n)
  unfold eeTimerCycle
  simp only
  split
  · split
    · exact eeTimerIncrement_deviceInv (prescaled 0) n
    · exact prescaled _
  · exact hs

theorem eeTimersCycle_deviceInv (hs : s.DeviceInv) : (eeTimersCycle s).DeviceInv :=
  eeTimerCycle_deviceInv (eeTimerCycle_deviceInv (eeTimerCycle_deviceInv (eeTimerCycle_deviceInv hs 0) 1) 2) 3

theorem eeTimerHblank_deviceInv (hs : s.DeviceInv) (n : Fin 4) : (eeTimerHblank n s).DeviceInv := by
  unfold eeTimerHblank
  simp only
  split
  · exact eeTimerIncrement_deviceInv hs n
  · exact hs

theorem eeTimersHblank_deviceInv (hs : s.DeviceInv) : (eeTimersHblank s).DeviceInv :=
  eeTimerHblank_deviceInv (eeTimerHblank_deviceInv (eeTimerHblank_deviceInv (eeTimerHblank_deviceInv hs 0) 1) 2) 3

/-- A value cut to a timer's width fits it. -/
theorem iopTimerMax_fits (n : Fin 6) (v : Word) (hn : n.val ≤ 2) : (v &&& iopTimerMax n).toNat < 0x10000 := by
  rw [iopTimerMax, if_pos hn, toNat_and_mask v 0x0000FFFF#32 16 rfl]
  omega

/-- A new count that fits the timer. -/
theorem iopCount_inv {n : Fin 6} {u : IopTimer} (hu : u.Inv n) {count : Word} (hc : n.val ≤ 2 → count.toNat < 0x10000) :
    IopTimer.Inv n { u with count := count } :=
  ⟨hu.1, fun hn => ⟨hc hn, (hu.2 hn).2⟩⟩

theorem iopFlag_inv {n : Fin 6} {u : IopTimer} (hu : u.Inv n) {flag : Nat}
    (hflag : (0x0000FFFE#32).getLsbD flag = true) : IopTimer.Inv n { u with mode := setBit u.mode flag true } :=
  ⟨within_setBit hu.1 hflag, hu.2⟩

theorem iopTimerIrq_deviceInv (hs : s.DeviceInv) (n : Fin 6) : (iopTimerIrq n s).DeviceInv := by
  have sources : ∀ n : Fin 6, iopTimerSource n < 26 := by decide
  unfold iopTimerIrq
  simp only
  split
  · exact requestIop_deviceInv (setIopTimer_deviceInv hs (iopFlag_inv (hs.iopTimers n) (by decide))) (sources n)
  · exact hs

theorem iopTimerFlag_deviceInv (hs : s.DeviceInv) {n : Fin 6} {flag enable : Nat}
    (hflag : (0x0000FFFE#32).getLsbD flag = true) : (iopTimerFlag n flag enable s).DeviceInv := by
  have flagged := setIopTimer_deviceInv hs (iopFlag_inv (hs.iopTimers n) hflag)
  unfold iopTimerFlag
  simp only
  split
  · exact iopTimerIrq_deviceInv flagged n
  · exact flagged

theorem iopTimerIncrement_deviceInv (hs : s.DeviceInv) (n : Fin 6) : (iopTimerIncrement n s).DeviceInv := by
  have target {u : State} (hu : u.DeviceInv) : (iopTimerTarget n u).DeviceInv := by
    have flagged := iopTimerFlag_deviceInv (n := n) (enable := 4) hu (flag := 11) (by decide)
    unfold iopTimerTarget
    simp only
    split
    · exact setIopTimer_deviceInv flagged (iopCount_inv (flagged.iopTimers n) fun _ => Nat.zero_lt_succ _)
    · exact flagged
  have counted : (s.setIopTimer n
      { s.iopTimer n with count := ((s.iopTimer n).count + 1) &&& iopTimerMax n }).DeviceInv :=
    setIopTimer_deviceInv hs (iopCount_inv (hs.iopTimers n) (iopTimerMax_fits n _))
  have compared (b : Prop) [Decidable b] {u : State} (hu : u.DeviceInv) :
      State.DeviceInv (if b then iopTimerTarget n u else u) := by
    split
    · exact target hu
    · exact hu
  have overflown (b : Bool) {u : State} (hu : u.DeviceInv) :
      State.DeviceInv (if b then iopTimerFlag n 12 5 u else u) := by
    split
    · exact iopTimerFlag_deviceInv hu (by decide)
    · exact hu
  exact overflown _ (compared _ counted)

theorem iopTimersCycle_deviceInv (hs : s.DeviceInv) : (iopTimersCycle s).DeviceInv :=
  iopTimerIncrement_deviceInv (iopTimerIncrement_deviceInv (iopTimerIncrement_deviceInv (iopTimerIncrement_deviceInv
    (iopTimerIncrement_deviceInv (iopTimerIncrement_deviceInv hs 0) 1) 2) 3) 4) 5

/-- A write of an IOP register keeps the stored bits (R460, R521, R525, R571). -/
theorem writeIopReg_deviceInv {r : IopReg} {v : Word} (hs : s.DeviceInv) (h : writeIopReg r v s = .next t) :
    t.DeviceInv := by
  cases r with
  | iStat => cases h; exact setIopStat_deviceInv hs (within_of_within_left hs.iopStat)
  | iMask | iCtrl => cases h; exact deviceInv_congr hs rfl rfl rfl rfl rfl
  | madr ch | bcr ch | tadr ch => cases h; exact setIopChannel_deviceInv hs ch (hs.iopChannels ch)
  | chcr ch => exact writeIopChcr_deviceInv hs h
  | dpcr | dpcr2 =>
    cases h
    exact { hs with }
  | dicr =>
    cases h
    exact iopDmaLineUpdate_deviceInv (setDicr_deviceInv hs
      (within_or (within_and rfl) (within_and rfl)))
  | dicr2 =>
    cases h
    exact iopDmaLineUpdate_deviceInv (setDicr2_deviceInv hs
      (within_or (within_and rfl) (within_and rfl)))
  | tCount n =>
    cases h
    exact setIopTimer_deviceInv hs (iopCount_inv (hs.iopTimers n) (iopTimerMax_fits n v))
  | tMode n =>
    simp only [writeIopReg, writeIopTMode] at h
    split at h
    case isTrue => cases h
    case isFalse hgate =>
      cases h
      refine setIopTimer_deviceInv hs ⟨within_iff.2 fun j hj hb => ?_, fun hn => ⟨Nat.zero_lt_succ _, ?_⟩⟩
      · have mask : ∀ j < 32, (0x0000E3FF#32).getLsbD j = true → j ≠ 0 → (0x0000FFFE#32).getLsbD j = true := by decide
        rw [BitVec.getElem_and, Bool.and_eq_true, ← BitVec.getLsbD_eq_getElem hj, ← BitVec.getLsbD_eq_getElem hj] at hb
        rw [← BitVec.getLsbD_eq_getElem hj]
        exact mask j hj hb.2 (by rintro rfl; exact hgate hb.1)
      · exact ((hs.iopTimers n).2 hn).2
  | tTarget n =>
    cases h
    exact setIopTimer_deviceInv hs
      ⟨(hs.iopTimers n).1, fun hn => ⟨((hs.iopTimers n).2 hn).1, iopTimerMax_fits n v hn⟩⟩

end

/-! ## Each agent's turn -/

section
variable {i : Instr} {s t : State}

theorem effect_deviceInv (h : Effect i s t) (hs : s.DeviceInv) : t.DeviceInv := by
  have regs {u : State} (h : RegEffect i s u) : u.DeviceInv := by
    obtain ⟨-, -, -, -, -, -, -, -, -, heeDmac, hiopDmac, heeTimers, hiopTimers, hstat, -⟩ := regEffect_rest h
    exact deviceInv_congr hs heeDmac hiopDmac hstat heeTimers hiopTimers
  cases h with
  | regs _ h => exact regs h
  | flow u _ _ _ h => exact deviceInv_congr (regs h) rfl rfl rfl rfl rfl
  | eeCop0 => exact deviceInv_congr hs rfl rfl rfl rfl rfl
  | iopCop0 => exact deviceInv_congr hs rfl rfl rfl rfl rfl
  | store va n v _ _ _ _ h =>
    cases h with
    | discarded => exact hs
    | page => exact deviceInv_congr hs rfl rfl rfl rfl rfl
    | eeReg r w t _ hw => exact writeEeReg_deviceInv hs hw
    | iopReg r w t _ hw => exact writeIopReg_deviceInv hs hw
    | external => exact deviceInv_congr hs rfl rfl rfl rfl rfl

theorem ctlOnly_deviceInv (h : CtlOnly s t) (hs : s.DeviceInv) : t.DeviceInv := by
  cases h <;> exact deviceInv_congr hs rfl rfl rfl rfl rfl

theorem endTick_deviceInv (hs : s.DeviceInv) : (endTick s).DeviceInv := by
  obtain ⟨a, n, h⟩ := endTick_eq s
  rw [h]
  exact deviceInv_congr hs rfl rfl rfl rfl rfl

theorem requestAll_deviceInv (rs : List IrqRequest) (hs : s.DeviceInv) : (requestAll rs s).DeviceInv := by
  induction rs generalizing s with
  | nil => exact hs
  | cons r rs ih =>
    cases r with
    | ee source => exact ih (requestEe_deviceInv hs source)
    | iop source => exact ih (requestIop_deviceInv hs source.isLt)

theorem schedulerPhase_deviceInv (hs : s.DeviceInv) : (schedulerPhase s).DeviceInv :=
  deviceInv_congr (requestAll_deviceInv (s.extIrq.headD []) hs) rfl rfl rfl rfl rfl

theorem fireEvent_deviceInv (e : Event) (hs : s.DeviceInv) : (fireEvent e s).DeviceInv := by
  have popped (q : Sched) : State.DeviceInv { s with sched := q } := deviceInv_congr hs rfl rfl rfl rfl rfl
  have requested {u : State} (hu : u.DeviceInv) (k i : Nat) (hi : i < 26) (kind : EventKind) :
      (((u.requestEe k).requestIop i).addEvent Config.frameCycles none kind).DeviceInv :=
    deviceInv_congr (requestIop_deviceInv (requestEe_deviceInv hu k) hi) rfl rfl rfl rfl rfl
  unfold fireEvent invokeEvent
  split
  · exact requested (popped _) 2 0 (by omega) _
  · exact requested (popped _) 3 11 (by omega) _
  · exact eeTimersHblank_deviceInv (popped _)

end

/-- Settles O47: a CPU by its instruction's effect, a DMAC channel by channel, the timers timer by timer, and the events
by the requests they make. -/
theorem stepKeepsDeviceRegisters : Obligations.StepKeepsDeviceRegisters := by
  intro s t hs h
  cases step_cases h with
  | cpu c i u _ hu => exact endTick_deviceInv (ctlOnly_deviceInv (finishStep_only u) (effect_deviceInv hu hs))
  | eeDmac u _ hu => exact endTick_deviceInv (eeChannelsTick_deviceInv hs hu)
  | eeTimers => exact endTick_deviceInv (eeTimersCycle_deviceInv hs)
  | iopDmac u _ hu => exact endTick_deviceInv (iopChannelsTick_deviceInv hs hu)
  | iopTimers => exact endTick_deviceInv (iopTimersCycle_deviceInv hs)
  | scheduler => exact endTick_deviceInv (schedulerPhase_deviceInv hs)
  | fire e => exact fireEvent_deviceInv e hs
  | quantum => exact deviceInv_congr hs rfl rfl rfl rfl rfl

end Sys2Proof.Machine
end

section
/-! SUPPORT. Memory stays canonical and within the five buffers: a store of a CPU, a quadword of the EE DMAC, a word of
the IOP DMAC, and the statement (20_memory.md R107, R114, R134). -/

namespace Sys2Proof.Machine

/-! ## The invariant under writes -/

section
variable {s t : State}

/-- The invariant looks at memory alone. -/
theorem memInv_congr (hs : s.MemInv) (h : t.mem = s.mem) : t.MemInv :=
  ⟨by rw [h]; exact hs.canonical, by rw [h]; exact hs.inBuffers⟩

theorem memInv_writeLE (hs : s.MemInv) {a n : Nat} {v : Quad} (ha : ∀ k < n, InBuffer (a + k))
    (h : t.mem = s.mem.writeLE a n v) : t.MemInv := by
  refine ⟨by rw [h]; exact wf_writeLE hs.canonical a n v, fun c hc => ?_⟩
  rw [h] at hc
  rcases mem_writeLE hc with hc | ⟨hlo, hhi⟩
  · exact hs.inBuffers c hc
  · have inside := ha (c.1 - a) (by omega)
    rwa [Nat.add_sub_of_le hlo] at inside

theorem memInv_write (hs : s.MemInv) {a : Nat} {b : Byte} (ha : InBuffer a) (h : t.mem = s.mem.write a b) :
    t.MemInv := by
  refine ⟨by rw [h]; exact wf_write hs.canonical a b, fun c hc => ?_⟩
  rw [h] at hc
  rcases mem_write hc with hc | rfl
  · exact hs.inBuffers c hc
  · exact ha

end

/-! ## Stores -/

/-- An access that a page serves is aligned for its size; SQ's address is aligned before the access (R48, R350). -/
theorem mod_of_aligned {n : Nat} {va : Word} (hn : n ∣ 16) (hquad : n = 16 → va.toNat % 16 = 0)
    (h : misalignedFor n va = false) : va.toNat % n = 0 := by
  have sizes : n = 1 ∨ n = 2 ∨ n = 4 ∨ n = 8 ∨ n = 16 := by
    have : n ≤ 16 := Nat.le_of_dvd (by omega) hn
    interval_cases n <;> simp_all
  by_contra hm
  obtain rfl | hn | rfl : n = 1 ∨ (n = 2 ∨ n = 4 ∨ n = 8) ∨ n = 16 := by omega
  · exact hm (Nat.mod_one _)
  · exact Bool.false_ne_true (h.symm.trans (misalignedFor_iff.2 ⟨hn, hm⟩))
  · exact hm (hquad rfl)

section
variable {i : Instr} {s t : State}

theorem writeEffect_memInv {va : Word} {n : Nat} {v : Quad} (hs : s.MemInv) (hn : n ∣ 16)
    (hquad : n = 16 → va.toNat % 16 = 0) (h : WriteEffect s va n v t) : t.MemInv := by
  cases h with
  | discarded => exact hs
  | page r hm hp =>
    have aligned : (translate s.cpu va).toNat % n = 0 := by rw [translate_mod _ _ _ hn, mod_of_aligned hn hquad hm]
    exact memInv_writeLE hs (fun k hk => regionKey_inBuffer (pageEntry_mem hp).1 _ n k hn aligned hk) rfl
  | eeReg r w t _ hw => exact memInv_congr hs (congrArg State.mem (writeEeReg_frame hw) :)
  | iopReg r w t _ hw => exact memInv_congr hs (congrArg State.mem (writeIopReg_frame hw) :)
  | external => exact memInv_congr hs rfl

theorem effect_memInv (h : Effect i s t) (hs : s.MemInv) : t.MemInv := by
  have regs {u : State} (h : RegEffect i s u) : u.MemInv := by
    obtain ⟨-, -, -, -, -, -, hmem, -⟩ := regEffect_rest h
    exact memInv_congr hs hmem
  cases h with
  | regs _ h => exact regs h
  | flow u _ _ _ h => exact memInv_congr (regs h) rfl
  | eeCop0 => exact memInv_congr hs rfl
  | iopCop0 => exact memInv_congr hs rfl
  | store va n v _ _ hn hquad h => exact writeEffect_memInv hs hn hquad h

end

/-! ## The EE DMAC -/

/-- The scratchpad quadword of a DMA address lies in the scratchpad. -/
theorem eeSprQuad_inBuffer (a : Word) {k : Nat} (hk : k < 16) :
    InBuffer (bufBase .eeSpr + (a &&& 0x3FF0#32).toNat + k) := by
  have low := toNat_and_mask (a &&& 0xFFFFFFF0#32) 0x3FFF#32 14 rfl
  rw [BitVec.and_assoc, show (0xFFFFFFF0#32 &&& 0x3FFF#32 : Word) = 0x3FF0#32 from rfl] at low
  have aligned := quad_aligned a
  simp only [InBuffer, bufBase]
  omega

/-- Every key of an aligned DMA address has its quadword in a buffer (20_memory.md R134). -/
theorem eeDmaKey_inBuffer {write : Bool} {addr : Word} {key k : Nat} (ha : Within eeAddrMask addr)
    (h : eeDmaKey write addr = some key) (hk : k < 16) : InBuffer (key + k) := by
  unfold eeDmaKey at h
  split at h
  · cases h; exact eeSprQuad_inBuffer addr hk
  · split at h
    case h_1 r hr =>
      split at h
      · cases h
      · cases h
        exact regionKey_inBuffer (pageEntry_mem hr).1 addr 16 k dvd_rfl ((within_eeAddrMask_iff addr).1 ha) hk
    case h_2 => cases h

section
variable {s t : State} {ch : Fin 10}

/-- A quadword moved into memory goes to MADR, or to SADR in the scratchpad (R492). -/
theorem eeMoveQuad_memInv (hs : s.MemInv) (hd : s.DeviceInv) (h : eeMoveQuad ch s = .next t) : t.MemInv := by
  have madr := (hd.eeChannels ch).madr
  unfold eeMoveQuad at h
  simp only at h
  split at h
  · obtain ⟨u, hu, hn⟩ := andThen_eq_next.1 h
    obtain ⟨k, hk, rfl⟩ := dmaWrite16_next hu
    cases hn
    exact memInv_writeLE hs (fun j hj => eeDmaKey_inBuffer madr hk hj) rfl
  · obtain ⟨q, u, hu, hn⟩ := useLoaded_eq_next.1 h
    obtain ⟨rfl, -⟩ := dmaRead16_value hu
    cases hn
    exact memInv_writeLE hs (fun j hj => eeSprQuad_inBuffer _ hj) rfl
  · split at h
    · obtain ⟨q, u, hu, hn⟩ := useLoaded_eq_next.1 h
      obtain ⟨rfl, -⟩ := dmaRead16_value hu
      cases hn
      exact memInv_congr hs rfl
    · obtain ⟨k, hk, rfl⟩ := dmaWrite16_next h
      exact memInv_writeLE hs (fun j hj => eeDmaKey_inBuffer madr hk hj) rfl

theorem eeCheckDone_mem (ch : Fin 10) (s : State) : (eeCheckDone ch s).mem = s.mem := by
  unfold eeCheckDone
  simp only
  split
  · split <;> rfl
  · rfl

theorem eeActiveTick_memInv (hs : s.MemInv) (hd : s.DeviceInv) (h : eeActiveTick ch s = .next t) : t.MemInv := by
  unfold eeActiveTick at h
  split at h
  · cases h
    exact memInv_congr hs (eeCheckDone_mem ch s)
  · rw [portReady_always] at h
    obtain ⟨u, hu, hn⟩ := andThen_eq_next.1 h
    cases hn
    exact memInv_congr (eeMoveQuad_memInv hs hd hu) (eeCheckDone_mem ch (eeAdvance ch u))

theorem eeTagTick_mem {tag : Quad} (h : eeTagTick ch tag s = .next t) : t.mem = s.mem := by
  unfold eeTagTick at h
  simp only at h
  split at h
  · cases h
  · cases h
    split <;> rfl

theorem eeChannelTick_memInv (hs : s.MemInv) (hd : s.DeviceInv) (h : eeChannelTick ch s = .next t) : t.MemInv := by
  unfold eeChannelTick at h
  simp only at h
  split at h
  · cases h; exact hs
  · split at h
    · cases h; exact hs
    · exact eeActiveTick_memInv hs hd h
    · obtain ⟨q, u, hu, hn⟩ := useLoaded_eq_next.1 h
      obtain ⟨rfl, -⟩ := dmaRead16_value hu
      exact memInv_congr hs (eeTagTick_mem hn)

/-- The channels' registers stay in their masks from channel to channel, so every address stays aligned. -/
theorem eeChannelsTick_memInv {chs : List (Fin 10)} (hs : s.MemInv) (hd : s.DeviceInv)
    (h : eeChannelsTick chs s = .next t) : t.MemInv := by
  induction chs generalizing s with
  | nil => cases h; exact hs
  | cons ch chs ih =>
    obtain ⟨u, hu, hn⟩ := andThen_eq_next.1 h
    exact ih (eeChannelTick_memInv hs hd hu) (eeChannelTick_deviceInv hd hu) hn

end

/-! ## The IOP DMAC -/

/-- A byte of a page lies in its buffer. -/
theorem iopDmaByteKey_inBuffer {write : Bool} {addr : Word} {key : Nat} (h : iopDmaByteKey write addr = some key) :
    InBuffer key := by
  unfold iopDmaByteKey at h
  split at h
  case h_1 r hr =>
    split at h
    · cases h
    · cases h
      exact regionKey_inBuffer (pageEntry_mem hr).1 addr 1 0 (one_dvd _) (Nat.mod_one _) Nat.one_pos
  case h_2 => cases h

section
variable {s t : State} {ch : Fin 13}

theorem dmaWrite4_memInv {addr w : Word} (hs : s.MemInv) (h : dmaWrite4 s addr w = .next t) : t.MemInv := by
  unfold dmaWrite4 at h
  split at h
  case h_1 k0 k1 k2 k3 h0 h1 h2 h3 =>
    cases h
    have byte {u : State} (hu : u.MemInv) {a : Word} {k : Nat} (hk : iopDmaByteKey true a = some k) (b : Byte) :
        State.MemInv { u with mem := u.mem.write k b } :=
      memInv_write hu (iopDmaByteKey_inBuffer hk) rfl
    exact byte (byte (byte (byte hs h0 _) h1 _) h2 _) h3 _
  case h_2 => cases h

theorem iopMoveWord_memInv (hs : s.MemInv) (h : iopMoveWord ch s = .next t) : t.MemInv := by
  unfold iopMoveWord at h
  simp only at h
  split at h
  · obtain ⟨q, u, hu, hn⟩ := useLoaded_eq_next.1 h
    unfold dmaRead4 at hu
    split at hu
    · cases hu; cases hn; exact memInv_congr hs rfl
    · cases hu
  · exact dmaWrite4_memInv (s := s.afterDraw) (memInv_congr hs rfl) h

theorem iopDmaLineUpdate_mem (s : State) : s.iopDmaLineUpdate.mem = s.mem :=
  (congrArg State.mem (iopDmaLineUpdate_frame s) :)

theorem iopCheckDone_mem (ch : Fin 13) (s : State) : (iopCheckDone ch s).mem = s.mem := by
  unfold iopCheckDone iopComplete
  split
  · rw [iopDmaLineUpdate_mem, State.setIopDmaFlag]
    split <;> rfl
  · rfl

theorem iopActiveTick_memInv (hs : s.MemInv) (h : iopActiveTick ch s = .next t) : t.MemInv := by
  unfold iopActiveTick at h
  split at h
  · cases h
    exact memInv_congr hs (iopCheckDone_mem ch s)
  · rw [portReady_always] at h
    obtain ⟨u, hu, hn⟩ := andThen_eq_next.1 h
    cases hn
    exact memInv_congr (iopMoveWord_memInv hs hu) (iopCheckDone_mem ch (iopAdvance ch u))

theorem iopChannelTick_memInv (hs : s.MemInv) (h : iopChannelTick ch s = .next t) : t.MemInv := by
  unfold iopChannelTick at h
  simp only at h
  split at h
  · cases h; exact hs
  · split at h
    · exact iopActiveTick_memInv hs h
    · cases h; exact hs

theorem iopChannelsTick_memInv {chs : List (Fin 13)} (hs : s.MemInv) (h : iopChannelsTick chs s = .next t) :
    t.MemInv := by
  induction chs generalizing s with
  | nil => cases h; exact hs
  | cons ch chs ih =>
    obtain ⟨u, hu, hn⟩ := andThen_eq_next.1 h
    exact ih (iopChannelTick_memInv hs hu) hn

end

theorem ctlOnly_memInv {s t : State} (h : CtlOnly s t) (hs : s.MemInv) : t.MemInv := by
  cases h <;> exact memInv_congr hs rfl

theorem endTick_memInv {s : State} (hs : s.MemInv) : (endTick s).MemInv := by
  obtain ⟨a, n, h⟩ := endTick_eq s
  rw [h]
  exact memInv_congr hs rfl

/-- Settles O46: a store by its page's alignment, the two DMACs channel by channel; no other agent writes memory. -/
theorem stepKeepsMemoryCanonical : Obligations.StepKeepsMemoryCanonical := by
  intro s t hs hd h
  cases step_cases h with
  | cpu c i u _ hu =>
    exact endTick_memInv (ctlOnly_memInv (finishStep_only u) (effect_memInv hu hs))
  | eeDmac u _ hu => exact endTick_memInv (eeChannelsTick_memInv hs hd hu)
  | iopDmac u _ hu => exact endTick_memInv (iopChannelsTick_memInv hs hu)
  | eeTimers =>
    obtain ⟨v, i, hv⟩ := eeTimersCycle_only s
    rw [hv]
    exact endTick_memInv (memInv_congr hs rfl)
  | iopTimers =>
    obtain ⟨v, i, hv⟩ := iopTimersCycle_only s
    rw [hv]
    exact endTick_memInv (memInv_congr hs rfl)
  | scheduler =>
    obtain ⟨e, i, x, q, hv⟩ := schedulerPhase_only s
    rw [hv]
    exact endTick_memInv (memInv_congr hs rfl)
  | fire e =>
    obtain ⟨e', i, q, v, hv⟩ := fireEvent_only e s
    rw [hv]
    exact memInv_congr hs rfl
  | quantum => exact memInv_congr hs rfl

end Sys2Proof.Machine
end

section
/-! SUPPORT. Reset: the page tables range by range, a BIOS image byte by byte, the invariants of the reset state, and
the statements (20_memory.md R105 to R107; 70_reset_and_hazards.md R600, R610). -/

namespace Sys2Proof.Machine

/-! ## The invariants -/

theorem eeChannel_reset (ch : Fin 10) : State.reset.eeChannel ch = EeChannel.reset :=
  Vector.getElem_replicate ch.isLt
theorem iopChannel_reset (ch : Fin 13) : State.reset.iopChannel ch = IopChannel.reset :=
  Vector.getElem_replicate ch.isLt
theorem eeTimer_reset (n : Fin 4) : State.reset.eeTimer n = EeTimer.reset := Vector.getElem_replicate n.isLt
theorem iopTimer_reset (n : Fin 6) : State.reset.iopTimer n = IopTimer.reset := Vector.getElem_replicate n.isLt

theorem reset_memInv : State.reset.MemInv := ⟨wf_nil, fun _ hc => nomatch hc⟩

theorem reset_deviceInv : State.reset.DeviceInv where
  eeChannels ch := by
    rw [eeChannel_reset]
    exact ⟨rfl, rfl, rfl, rfl, rfl, rfl, iff_of_true rfl rfl⟩
  iopChannels ch := by
    rw [iopChannel_reset]
    rfl
  dStat := rfl
  dicr := rfl
  dicr2 := rfl
  iopStat := rfl
  eeTimers n := by
    rw [eeTimer_reset]
    rfl
  iopTimers n := by
    rw [iopTimer_reset]
    exact ⟨rfl, fun _ => ⟨Nat.zero_lt_succ _, Nat.zero_lt_succ _⟩⟩

theorem reset_coreInv : State.reset.CoreInv := ⟨rfl, rfl, rfl, rfl⟩

theorem reset_driverInv : State.reset.DriverInv where
  ticks := by decide
  elapsed := by decide
  boundary := by decide
  sorted := by decide

/-- Settles O50: the four parts. -/
theorem resetSatisfiesTheInvariants : Obligations.ResetSatisfiesTheInvariants :=
  ⟨reset_memInv, reset_deviceInv, reset_coreInv, reset_driverInv⟩

/-! ## The page tables (20_memory.md R105 to R107) -/

/-- Every region is whole pages. -/
theorem regions_pages (c : Cpu) : ∀ r ∈ Config.regions c, 4096 ∣ r.base ∧ 4096 ∣ r.size := by
  cases c <;> decide

/-- The page of an address is served by the first region that holds the address. -/
theorem pageEntry_eq_find (c : Cpu) (pa : Word) : pageEntry c pa =
    (Config.regions c).find? fun r => decide (r.base ≤ pa.toNat ∧ pa.toNat < r.base + r.size) := by
  have covers : ∀ r ∈ Config.regions c,
      regionCovers r pa = decide (r.base ≤ pa.toNat ∧ pa.toNat < r.base + r.size) := fun r hr => by
    obtain ⟨hb, hs⟩ := regions_pages c r hr
    rw [Bool.eq_iff_iff, regionCovers_iff hb hs, decide_eq_true_iff]
  unfold pageEntry
  generalize Config.regions c = rs at covers
  induction rs with
  | nil => rfl
  | cons r rs ih =>
    rw [List.find?_cons, List.find?_cons, covers r (by simp), ih fun r' hr' => covers r' (by simp [hr'])]

theorem find?_cons_decide {α : Type} (p : α → Prop) [DecidablePred p] (a : α) (l : List α) :
    (a :: l).find? (fun x => decide (p x)) = if p a then some a else l.find? fun x => decide (p x) := by
  rw [List.find?_cons]
  by_cases h : p a <;> simp [h]

theorem pageEntry_ee (pa : Word) : pageEntry .ee pa =
    if pa.toNat < 0x02000000 then some ⟨0x00000000, 0x02000000, 0x01FFFFFF#32, .eeRam, true⟩
    else if 0x1C000000 ≤ pa.toNat ∧ pa.toNat < 0x1C200000 then
      some ⟨0x1C000000, 0x00200000, 0x001FFFFF#32, .iopRam, true⟩
    else if 0x1FC00000 ≤ pa.toNat ∧ pa.toNat < 0x20000000 then
      some ⟨0x1FC00000, 0x00400000, 0x003FFFFF#32, .bios, false⟩
    else if 0x70000000 ≤ pa.toNat ∧ pa.toNat < 0x70004000 then
      some ⟨0x70000000, 0x00004000, 0x00003FFF#32, .eeSpr, true⟩
    else none := by
  rw [pageEntry_eq_find]
  simp only [Config.regions, Config.eeRegions, find?_cons_decide, List.find?_nil, Nat.zero_le, true_and, Nat.reduceAdd]

theorem pageEntry_iop (pa : Word) : pageEntry .iop pa =
    if pa.toNat < 0x00800000 then some ⟨0x00000000, 0x00800000, 0x001FFFFF#32, .iopRam, true⟩
    else if 0x1F800000 ≤ pa.toNat ∧ pa.toNat < 0x1F801000 then
      some ⟨0x1F800000, 0x00001000, 0x000003FF#32, .iopSpr, true⟩
    else if 0x1FC00000 ≤ pa.toNat ∧ pa.toNat < 0x20000000 then
      some ⟨0x1FC00000, 0x00400000, 0x003FFFFF#32, .bios, false⟩
    else none := by
  rw [pageEntry_eq_find]
  simp only [Config.regions, Config.iopRegions, find?_cons_decide, List.find?_nil, Nat.zero_le, true_and, Nat.reduceAdd]

/-- The key of an address under a mask of low ones. -/
theorem regionKey_eq_mod {r : Region} {k : Nat} (hmask : r.mask.toNat = 2 ^ k - 1) (pa : Word) :
    regionKey r pa = bufBase r.buf + pa.toNat % 2 ^ k := by
  rw [regionKey, toNat_and_mask pa r.mask k hmask]

/-- What a statement about the page table looks at. -/
def pageView (pa : Word) (r : Region) : Buf × Bool × Nat := (r.buf, r.writable, regionKey r pa)

theorem pageView_eq {r : Region} {pa : Word} {k key : Nat} (hmask : r.mask.toNat = 2 ^ k - 1)
    (hkey : bufBase r.buf + pa.toNat % 2 ^ k = key) : some (pageView pa r) = some (r.buf, r.writable, key) := by
  rw [pageView, regionKey_eq_mod hmask, hkey]

theorem map_ite_option {α β : Type} (f : α → β) (p : Prop) [Decidable p] (a : α) (o : Option α) :
    (if p then some a else o).map f = if p then some (f a) else o.map f := by
  split <;> rfl

theorem pageMap_ee (pa : Word) : (pageEntry .ee pa).map (pageView pa) =
    if pa.toNat < 0x02000000 then some (.eeRam, true, pa.toNat)
    else if 0x1C000000 ≤ pa.toNat ∧ pa.toNat < 0x1C200000 then some (.iopRam, true, pa.toNat)
    else if 0x1FC00000 ≤ pa.toNat ∧ pa.toNat < 0x20000000 then some (.bios, false, pa.toNat)
    else if 0x70000000 ≤ pa.toNat ∧ pa.toNat < 0x70004000 then some (.eeSpr, true, pa.toNat)
    else none := by
  simp only [pageEntry_ee, map_ite_option, Option.map_none]
  refine ite_congr rfl (fun h => ?_) fun _ => ite_congr rfl (fun h => ?_) fun _ =>
    ite_congr rfl (fun h => ?_) fun _ => ite_congr rfl (fun h => ?_) fun _ => rfl
  · exact pageView_eq (k := 25) rfl (by simp only [bufBase]; omega)
  · exact pageView_eq (k := 21) rfl (by simp only [bufBase]; omega)
  · exact pageView_eq (k := 22) rfl (by simp only [bufBase]; omega)
  · exact pageView_eq (k := 14) rfl (by simp only [bufBase]; omega)

theorem pageMap_iop (pa : Word) : (pageEntry .iop pa).map (pageView pa) =
    if pa.toNat < 0x00800000 then some (.iopRam, true, 0x1C000000 + pa.toNat % 0x200000)
    else if 0x1F800000 ≤ pa.toNat ∧ pa.toNat < 0x1F801000 then some (.iopSpr, true, 0x1F800000 + pa.toNat % 0x400)
    else if 0x1FC00000 ≤ pa.toNat ∧ pa.toNat < 0x20000000 then some (.bios, false, pa.toNat)
    else none := by
  simp only [pageEntry_iop, map_ite_option, Option.map_none]
  refine ite_congr rfl (fun h => ?_) fun _ => ite_congr rfl (fun h => ?_) fun _ =>
    ite_congr rfl (fun h => ?_) fun _ => rfl
  · exact pageView_eq (k := 21) rfl rfl
  · exact pageView_eq (k := 10) rfl rfl
  · exact pageView_eq (k := 22) rfl (by simp only [bufBase]; omega)

/-! ## A BIOS image (R610) -/

theorem read_writeBytes_other (m : Memory) (a : Nat) (bs : List Byte) {b : Nat} (h : b < a ∨ a + bs.length ≤ b) :
    (m.writeBytes a bs).read b = m.read b := by
  induction bs generalizing m a with
  | nil => rfl
  | cons c bs ih =>
    rw [List.length_cons] at h
    rw [Memory.writeBytes, ih _ _ (by omega), read_write, if_neg (by omega)]

/-- Byte `k` of a list written from key `a` on is at key `a + k`. -/
theorem read_writeBytes_same (m : Memory) (a : Nat) (bs : List Byte) {k : Nat} (h : k < bs.length) :
    (m.writeBytes a bs).read (a + k) = bs[k] := by
  induction bs generalizing m a k with
  | nil => exact absurd h (Nat.not_lt_zero k)
  | cons c bs ih =>
    rw [Memory.writeBytes]
    cases k with
    | zero => rw [read_writeBytes_other _ _ _ (by omega), read_write, if_pos (Nat.add_zero a)]; rfl
    | succ k =>
      rw [show a + (k + 1) = a + 1 + k by omega, ih _ _ (by simpa using h)]
      rfl

theorem loadBios_of_fits {s : State} {image : List Byte} (h : image.length ≤ 0x400000) :
    s.loadBios image = some { s with mem := s.mem.writeBytes 0x1FC00000 image } := if_pos h

/-- Settles O51: the page map by `pageMap_ee` and `pageMap_iop`, an image by the bytes of `writeBytes`. -/
theorem resetGivesEveryElementItsValue : Obligations.ResetGivesEveryElementItsValue := by
  refine ⟨fun r => ⟨?ee, ?iop⟩, rfl, rfl, rfl, rfl, rfl, rfl, rfl, rfl, rfl, fun a _ => rfl, fun image himage => ?bios,
    fun pa => ⟨pageMap_ee pa, pageMap_iop pa⟩, rfl, rfl, eeChannel_reset, rfl, rfl, rfl, rfl, rfl, rfl, rfl,
    iopChannel_reset, rfl, rfl, rfl, rfl, eeTimer_reset, iopTimer_reset, rfl, rfl, rfl⟩
  case ee => exact ite_eq_left_iff.2 fun _ => Vector.getElem_replicate r.isLt
  case iop => exact ite_eq_left_iff.2 fun _ => Vector.getElem_replicate r.isLt
  case bios =>
    exact ⟨_, loadBios_of_fits himage, fun k hk => read_writeBytes_same _ _ image hk,
      fun a ha => read_writeBytes_other _ _ image ha, rfl⟩

end Sys2Proof.Machine
end

section
/-! SUPPORT. The timers: what one count makes of a timer and of its interrupt controller, said once per kind, then each
timer block's cycle, and the statement (60_exceptions.md R543, R544, R561, R572, R573). -/

namespace Sys2Proof.Machine

/-- A flag of a mode register set where `b` holds. -/
def raised (b : Bool) (flag : Nat) (mode : Word) : Word := if b then setBit mode flag true else mode

theorem getLsbD_raised (b : Bool) (flag : Nat) (mode : Word) {j : Nat} (hj : j < 32) :
    (raised b flag mode).getLsbD j = if j = flag then mode.getLsbD j || b else mode.getLsbD j := by
  cases b
  · simp [raised]
  · rw [raised, if_pos rfl, getLsbD_setBit _ _ _ _ hj, Bool.or_true]

/-! ## One count of an EE timer (R544) -/

/-- INTC_STAT with a timer's request, where it makes one (R545). -/
def eeRequested (n : Fin 4) (b : Bool) (stat : BitVec 15) : BitVec 15 :=
  if b then stat ||| (1#15 <<< (9 + n.val)) else stat

theorem getLsbD_eeRequested (n : Fin 4) (b : Bool) (stat : BitVec 15) (j : Nat) :
    (eeRequested n b stat).getLsbD j = if j = 9 + n.val then stat.getLsbD j || b else stat.getLsbD j := by
  have bit : (1#15 <<< (9 + n.val)).getLsbD j = decide (j = 9 + n.val) := by
    rw [BitVec.getLsbD_shiftLeft, BitVec.getLsbD_one, Bool.eq_iff_iff]
    simp
    omega
  cases b
  · simp [eeRequested]
  · simp only [eeRequested, if_true, BitVec.getLsbD_or, bit]
    split <;> simp [*]

theorem eeRequested_eeRequested (n : Fin 4) (a b : Bool) (stat : BitVec 15) :
    eeRequested n a (eeRequested n b stat) = eeRequested n (b || a) stat := by
  cases a <;> cases b <;> simp [eeRequested, BitVec.or_assoc]

/-- The state with one EE timer and INTC_STAT replaced. -/
def withEeTimer (s : State) (n : Fin 4) (u : EeTimer) (stat : BitVec 15) : State :=
  { s.setEeTimer n u with eeIntc := { s.eeIntc with stat := stat } }

section
variable (s : State) (n : Fin 4) (u u' : EeTimer) (stat : BitVec 15)

theorem withEeTimer_eeTimer : (withEeTimer s n u stat).eeTimer n = u :=
  (eeTimer_setEeTimer s n n u).trans (if_pos rfl)

theorem withEeTimer_setEeTimer : (withEeTimer s n u stat).setEeTimer n u' = withEeTimer s n u' stat := by
  simp only [withEeTimer, State.setEeTimer, Vector.set_set]

theorem withEeTimer_withEeTimer (stat' : BitVec 15) :
    withEeTimer (withEeTimer s n u stat) n u' stat' = withEeTimer s n u' stat' := by
  simp only [withEeTimer, State.setEeTimer, Vector.set_set]

theorem withEeTimer_requestEe (i : Nat) :
    (withEeTimer s n u stat).requestEe i = withEeTimer s n u (stat ||| (1#15 <<< i)) := rfl

theorem withEeTimer_self : withEeTimer s n (s.eeTimer n) s.eeIntc.stat = s := by
  simp only [withEeTimer, State.setEeTimer, State.eeTimer, Vector.set_getElem_self]

/-- A flag is raised, and its request made, where its enable is 1 and it was 0. -/
theorem eeTimerFlag_withEeTimer (enable flag : Nat) :
    eeTimerFlag n enable flag (withEeTimer s n u stat) =
      withEeTimer s n { u with mode := raised (u.mode.getLsbD enable && !u.mode.getLsbD flag) flag u.mode }
        (eeRequested n (u.mode.getLsbD enable && !u.mode.getLsbD flag) stat) := by
  simp only [eeTimerFlag, withEeTimer_eeTimer, withEeTimer_setEeTimer, withEeTimer_requestEe, raised, eeRequested]
  split <;> rfl

end

/-- The count reaches T_COMP and raises the equal flag. -/
def eeEqualFires (t : EeTimer) : Bool := decide (t.count + 1 = t.comp) && t.mode.getLsbD 8 && !t.mode.getLsbD 10

/-- The count overflows and raises the overflow flag. -/
def eeOverflowFires (t : EeTimer) : Bool := decide (t.count = 0xFFFF#16) && t.mode.getLsbD 9 && !t.mode.getLsbD 11

/-- An EE timer after one count. -/
def eeCounted (t : EeTimer) : EeTimer :=
  { t with
    count := if decide (t.count + 1 = t.comp) && t.mode.getLsbD 6 then 0 else t.count + 1
    mode := raised (eeOverflowFires t) 11 (raised (eeEqualFires t) 10 t.mode) }

/-- T_MODE after one count, bit by bit. -/
theorem getLsbD_eeCounted_mode (t : EeTimer) {j : Nat} (hj : j < 32) : (eeCounted t).mode.getLsbD j =
    if j = 10 then t.mode.getLsbD 10 || eeEqualFires t
    else if j = 11 then t.mode.getLsbD 11 || eeOverflowFires t
    else t.mode.getLsbD j := by
  show (raised (eeOverflowFires t) 11 (raised (eeEqualFires t) 10 t.mode)).getLsbD j = _
  rw [getLsbD_raised _ _ _ hj, getLsbD_raised _ _ _ hj]
  by_cases h10 : j = 10
  · subst h10; rfl
  · by_cases h11 : j = 11
    · subst h11; rfl
    · simp only [if_neg h10, if_neg h11]

/-- One count asks for the timer's interrupt. -/
def eeCountRequests (t : EeTimer) : Bool := eeEqualFires t || eeOverflowFires t

/-- The overflow step, where the count was at its end. -/
theorem eeTimerFlag_overflow (s : State) (n : Fin 4) (u : EeTimer) (stat : BitVec 15) (b : Bool) :
    (if b then eeTimerFlag n 9 11 (withEeTimer s n u stat) else withEeTimer s n u stat) =
      withEeTimer s n { u with mode := raised (b && u.mode.getLsbD 9 && !u.mode.getLsbD 11) 11 u.mode }
        (eeRequested n (b && u.mode.getLsbD 9 && !u.mode.getLsbD 11) stat) := by
  cases b
  · rfl
  · rw [if_pos rfl, eeTimerFlag_withEeTimer, Bool.true_and]

/-- The equal step, where the count has reached T_COMP. -/
theorem eeTimerEqual_withEeTimer (s : State) (n : Fin 4) (u : EeTimer) (stat : BitVec 15) (p : Prop) [Decidable p] :
    (if p then eeTimerEqual n (withEeTimer s n u stat) else withEeTimer s n u stat) =
      withEeTimer s n { u with
          count := if decide p && u.mode.getLsbD 6 then 0 else u.count
          mode := raised (decide p && u.mode.getLsbD 8 && !u.mode.getLsbD 10) 10 u.mode }
        (eeRequested n (decide p && u.mode.getLsbD 8 && !u.mode.getLsbD 10) stat) := by
  by_cases hp : p
  · have zero (b : Bool) : (raised b 10 u.mode).getLsbD 6 = u.mode.getLsbD 6 := by
      rw [getLsbD_raised _ _ _ (by omega), if_neg (by omega)]
    simp only [hp, if_true, eeTimerEqual, eeTimerFlag_withEeTimer, withEeTimer_eeTimer, withEeTimer_setEeTimer,
      decide_true, Bool.true_and, zero]
    split <;> rfl
  · simp only [hp, if_false, decide_false, Bool.false_and, raised, eeRequested, Bool.false_eq_true]

theorem eeTimerIncrement_eq (n : Fin 4) (s : State) : eeTimerIncrement n s =
    withEeTimer s n (eeCounted (s.eeTimer n)) (eeRequested n (eeCountRequests (s.eeTimer n)) s.eeIntc.stat) := by
  have start (u : EeTimer) : s.setEeTimer n u = withEeTimer s n u s.eeIntc.stat := rfl
  have kept (b : Bool) (mode : Word) {j : Nat} (hj : j < 32) (h : j ≠ 10) :
      (raised b 10 mode).getLsbD j = mode.getLsbD j := by rw [getLsbD_raised _ _ _ hj, if_neg h]
  simp only [eeTimerIncrement, start, eeTimerEqual_withEeTimer, eeTimerFlag_overflow, eeRequested_eeRequested,
    kept _ _ (show 9 < 32 by omega) (by omega), kept _ _ (show 11 < 32 by omega) (by omega)]
  rfl

/-! ## A block of EE timers (R543, R592) -/

/-- One timer and its request replaced by what functions of the timer give. -/
def updateEeTimer (f : EeTimer → EeTimer) (r : EeTimer → Bool) (n : Fin 4) (s : State) : State :=
  withEeTimer s n (f (s.eeTimer n)) (eeRequested n (r (s.eeTimer n)) s.eeIntc.stat)

/-- The four timers in order. -/
def updateEeTimers (f : EeTimer → EeTimer) (r : EeTimer → Bool) (s : State) : State :=
  updateEeTimer f r 3 (updateEeTimer f r 2 (updateEeTimer f r 1 (updateEeTimer f r 0 s)))

section
variable (f : EeTimer → EeTimer) (r : EeTimer → Bool) (s : State)

theorem updateEeTimer_eeTimer (n m : Fin 4) :
    (updateEeTimer f r n s).eeTimer m = if m = n then f (s.eeTimer n) else s.eeTimer m :=
  eeTimer_setEeTimer s n m _

theorem updateEeTimer_stat (n : Fin 4) (j : Nat) : (updateEeTimer f r n s).eeIntc.stat.getLsbD j =
    if j = 9 + n.val then s.eeIntc.stat.getLsbD j || r (s.eeTimer n) else s.eeIntc.stat.getLsbD j :=
  getLsbD_eeRequested n _ _ j

/-- Each timer goes by its own registers. -/
theorem updateEeTimers_eeTimer (n : Fin 4) : (updateEeTimers f r s).eeTimer n = f (s.eeTimer n) := by
  fin_cases n <;> simp [updateEeTimers, updateEeTimer_eeTimer]

theorem updateEeTimers_source (n : Fin 4) : (updateEeTimers f r s).eeIntc.stat.getLsbD (9 + n.val) =
    (s.eeIntc.stat.getLsbD (9 + n.val) || r (s.eeTimer n)) := by
  simp only [updateEeTimers, updateEeTimer_stat, updateEeTimer_eeTimer]
  fin_cases n <;> rfl

theorem updateEeTimers_otherSource {j : Nat} (hj : j < 9 ∨ 13 ≤ j) :
    (updateEeTimers f r s).eeIntc.stat.getLsbD j = s.eeIntc.stat.getLsbD j := by
  have other (n : Fin 4) : j ≠ 9 + n.val := by omega
  simp only [updateEeTimers, updateEeTimer_stat, if_neg (other _)]

theorem updateEeTimer_mask (n : Fin 4) : (updateEeTimer f r n s).eeIntc.mask = s.eeIntc.mask := rfl

theorem updateEeTimers_mask : (updateEeTimers f r s).eeIntc.mask = s.eeIntc.mask := by
  simp only [updateEeTimers, updateEeTimer_mask]

end

theorem eeTimerIncrement_eq_update (n : Fin 4) (s : State) :
    eeTimerIncrement n s = updateEeTimer eeCounted eeCountRequests n s := eeTimerIncrement_eq n s

/-- The count of a timer is a matter of that timer's registers alone. -/
theorem eeTimerIncrement_eeTimer (n : Fin 4) (s : State) :
    (eeTimerIncrement n s).eeTimer n = eeCounted (s.eeTimer n) := by
  rw [eeTimerIncrement_eq_update, updateEeTimer_eeTimer, if_pos rfl]

theorem eeTimerIncrement_source (n : Fin 4) (s : State) : (eeTimerIncrement n s).eeIntc.stat.getLsbD (9 + n.val) =
    (s.eeIntc.stat.getLsbD (9 + n.val) || eeCountRequests (s.eeTimer n)) := by
  rw [eeTimerIncrement_eq_update, updateEeTimer_stat, if_pos rfl]

/-- An enabled timer that counts bus cycles. -/
def eeRuns (t : EeTimer) : Bool := timerCue t.mode && timerClks t.mode != 3

/-- The prescaler of a running timer reaches its division. -/
def eeCounts (t : EeTimer) : Bool := eeRuns t && decide (t.pre + 1 = timerDiv (timerClks t.mode))

/-- An EE timer after one bus cycle. -/
def eeCycled (t : EeTimer) : EeTimer :=
  if eeCounts t then eeCounted { t with pre := 0 } else if eeRuns t then { t with pre := t.pre + 1 } else t

def eeCycleRequests (t : EeTimer) : Bool := eeCounts t && eeCountRequests { t with pre := 0 }

theorem eeTimerCycle_eq_update (n : Fin 4) (s : State) :
    eeTimerCycle n s = updateEeTimer eeCycled eeCycleRequests n s := by
  have start (u : EeTimer) : s.setEeTimer n u = withEeTimer s n u s.eeIntc.stat := rfl
  unfold eeTimerCycle
  simp only
  split
  next hruns =>
    have hruns : eeRuns (s.eeTimer n) = true := hruns
    split
    next hdiv =>
      have hcounts : eeCounts (s.eeTimer n) = true := by rw [eeCounts, hruns, decide_eq_true hdiv]; rfl
      rw [eeTimerIncrement_eq, start, withEeTimer_eeTimer, withEeTimer_withEeTimer, updateEeTimer, eeCycled,
        eeCycleRequests, hcounts, if_pos rfl, Bool.true_and]
      rfl
    next hdiv =>
      have hcounts : eeCounts (s.eeTimer n) = false := by rw [eeCounts, hruns, decide_eq_false hdiv]; rfl
      simp only [updateEeTimer, eeCycled, eeCycleRequests, hcounts, hruns, Bool.false_and]
      rfl
  next hruns =>
    have hruns : eeRuns (s.eeTimer n) = false := Bool.not_eq_true _ ▸ hruns
    have hcounts : eeCounts (s.eeTimer n) = false := by rw [eeCounts, hruns, Bool.false_and]
    simp only [updateEeTimer, eeCycled, eeCycleRequests, hcounts, hruns, Bool.false_and]
    exact (withEeTimer_self s n).symm

theorem eeTimersCycle_eq_update (s : State) : eeTimersCycle s = updateEeTimers eeCycled eeCycleRequests s := by
  simp only [eeTimersCycle, eeTimerCycle_eq_update, updateEeTimers]

/-- A timer that counts hblank events. -/
def eeCountsHblank (t : EeTimer) : Bool := timerCue t.mode && timerClks t.mode == 3

theorem eeTimerHblank_eq_update (n : Fin 4) (s : State) :
    eeTimerHblank n s = updateEeTimer (fun t => if eeCountsHblank t then eeCounted t else t)
      (fun t => eeCountsHblank t && eeCountRequests t) n s := by
  unfold eeTimerHblank
  simp only [← show eeCountsHblank (s.eeTimer n) = (timerCue (s.eeTimer n).mode && timerClks (s.eeTimer n).mode == 3)
    from rfl, updateEeTimer]
  cases hcounts : eeCountsHblank (s.eeTimer n)
  · exact (withEeTimer_self s n).symm
  · exact eeTimerIncrement_eq n s

theorem eeTimersHblank_eq_update (s : State) :
    eeTimersHblank s = updateEeTimers (fun t => if eeCountsHblank t then eeCounted t else t)
      (fun t => eeCountsHblank t && eeCountRequests t) s := by
  simp only [eeTimersHblank, eeTimerHblank_eq_update, updateEeTimers]

/-! ## One count of an IOP timer (R573) -/

/-- I_STAT with a timer's request, where it makes one (R574). -/
def iopRequested (n : Fin 6) (b : Bool) (stat : Word) : Word :=
  if b then stat ||| (1#32 <<< iopTimerSource n) else stat

theorem getLsbD_or_bit (v : Word) (i j : Nat) (hi : i < 32) :
    (v ||| (1#32 <<< i)).getLsbD j = if j = i then true else v.getLsbD j := by
  by_cases hj : j < 32
  · exact getLsbD_setBit v i true j hj
  · rw [if_neg (by omega), BitVec.getLsbD_of_ge _ _ (by omega), BitVec.getLsbD_of_ge _ _ (by omega)]

theorem getLsbD_iopRequested (n : Fin 6) (b : Bool) (stat : Word) (j : Nat) :
    (iopRequested n b stat).getLsbD j =
      if j = iopTimerSource n then stat.getLsbD j || b else stat.getLsbD j := by
  have source : ∀ n : Fin 6, iopTimerSource n < 32 := by decide
  cases b
  · simp [iopRequested]
  · rw [iopRequested, if_pos rfl, getLsbD_or_bit _ _ _ (source n), Bool.or_true]

theorem iopRequested_iopRequested (n : Fin 6) (a b : Bool) (stat : Word) :
    iopRequested n a (iopRequested n b stat) = iopRequested n (b || a) stat := by
  cases a <;> cases b <;> simp [iopRequested, BitVec.or_assoc]

/-- The state with one IOP timer and I_STAT replaced. -/
def withIopTimer (s : State) (n : Fin 6) (u : IopTimer) (stat : Word) : State :=
  { s.setIopTimer n u with iopIntc := { s.iopIntc with stat := stat } }

/-- A flag that is set asks for the timer's interrupt: its enable is 1, and MODE repeats or has not yet asked. -/
def iopFlagFires (flag enable : Nat) (mode : Word) : Bool :=
  mode.getLsbD enable && ((setBit mode flag true).getLsbD 6 || !(setBit mode flag true).getLsbD 10)

/-- MODE with a flag set, and bit 10 where that asks for the interrupt. -/
def iopFlagMode (flag enable : Nat) (mode : Word) : Word :=
  raised (iopFlagFires flag enable mode) 10 (setBit mode flag true)

section
variable (s : State) (n : Fin 6) (u u' : IopTimer) (stat : Word)

theorem withIopTimer_iopTimer : (withIopTimer s n u stat).iopTimer n = u :=
  (iopTimer_setIopTimer s n n u).trans (if_pos rfl)

theorem withIopTimer_setIopTimer : (withIopTimer s n u stat).setIopTimer n u' = withIopTimer s n u' stat := by
  simp only [withIopTimer, State.setIopTimer, Vector.set_set]

theorem withIopTimer_requestIop (i : Nat) :
    (withIopTimer s n u stat).requestIop i = withIopTimer s n u (stat ||| (1#32 <<< i)) := rfl

theorem iopTimerFlag_withIopTimer (flag enable : Nat) :
    iopTimerFlag n flag enable (withIopTimer s n u stat) =
      withIopTimer s n { u with mode := iopFlagMode flag enable u.mode }
        (iopRequested n (iopFlagFires flag enable u.mode) stat) := by
  simp only [iopTimerFlag, iopTimerIrq, withIopTimer_iopTimer, withIopTimer_setIopTimer, withIopTimer_requestIop,
    iopFlagMode, iopFlagFires, raised, iopRequested]
  by_cases h : u.mode.getLsbD enable = true
  · simp only [h, if_true, Bool.true_and]
    split <;> rfl
  · simp only [h, Bool.false_and, Bool.false_eq_true, if_false]

end

section
variable {flag : Nat} (hflag : flag = 11 ∨ flag = 12) (enable : Nat) (mode : Word)
include hflag

theorem iopFlagFires_eq :
    iopFlagFires flag enable mode = (mode.getLsbD enable && (mode.getLsbD 6 || !mode.getLsbD 10)) := by
  rw [iopFlagFires, getLsbD_setBit _ _ _ 6 (by omega), getLsbD_setBit _ _ _ 10 (by omega), if_neg (by omega),
    if_neg (by omega)]

theorem getLsbD_iopFlagMode {j : Nat} (hj : j < 32) : (iopFlagMode flag enable mode).getLsbD j =
    if j = flag then true else if j = 10 then mode.getLsbD 10 || mode.getLsbD enable else mode.getLsbD j := by
  rw [iopFlagMode, getLsbD_raised _ _ _ hj, iopFlagFires_eq hflag, getLsbD_setBit _ _ _ _ hj]
  by_cases h10 : j = 10
  · subst h10
    rw [if_neg (show ¬ 10 = flag by omega), if_pos rfl, if_neg (show ¬ 10 = flag by omega), if_pos rfl]
    cases mode.getLsbD 10 <;> cases mode.getLsbD enable <;> simp
  · simp only [if_neg h10]

end

/-- An IOP timer's new count. -/
def iopCount (n : Fin 6) (t : IopTimer) : Word := (t.count + 1) &&& iopTimerMax n

/-- MODE after the check against TARGET. -/
def iopTargetMode (n : Fin 6) (t : IopTimer) : Word :=
  if iopCount n t = t.target then iopFlagMode 11 4 t.mode else t.mode

/-- An IOP timer after one count. -/
def iopCounted (n : Fin 6) (t : IopTimer) : IopTimer :=
  { t with
    count := if decide (iopCount n t = t.target) && t.mode.getLsbD 3 then 0 else iopCount n t
    mode := if t.count = iopTimerMax n then iopFlagMode 12 5 (iopTargetMode n t) else iopTargetMode n t }

/-- One count asks for the timer's interrupt. -/
def iopCountRequests (n : Fin 6) (t : IopTimer) : Bool :=
  (decide (iopCount n t = t.target) && iopFlagFires 11 4 t.mode) ||
    (decide (t.count = iopTimerMax n) && iopFlagFires 12 5 (iopTargetMode n t))

section
variable (s : State) (n : Fin 6) (u : IopTimer) (stat : Word)

theorem iopTimerTarget_withIopTimer (p : Prop) [Decidable p] :
    (if p then iopTimerTarget n (withIopTimer s n u stat) else withIopTimer s n u stat) =
      withIopTimer s n { u with
          count := if decide p && u.mode.getLsbD 3 then 0 else u.count
          mode := if p then iopFlagMode 11 4 u.mode else u.mode }
        (iopRequested n (decide p && iopFlagFires 11 4 u.mode) stat) := by
  by_cases hp : p
  · have zero : (iopFlagMode 11 4 u.mode).getLsbD 3 = u.mode.getLsbD 3 := by
      rw [getLsbD_iopFlagMode (.inl rfl) _ _ (by omega), if_neg (by omega), if_neg (by omega)]
    simp only [hp, if_true, iopTimerTarget, iopTimerFlag_withIopTimer, withIopTimer_iopTimer,
      withIopTimer_setIopTimer, decide_true, Bool.true_and, zero]
    split <;> rfl
  · simp only [hp, if_false, decide_false, Bool.false_and, iopRequested, Bool.false_eq_true]

theorem iopTimerFlag_overflow (p : Prop) [Decidable p] :
    (if decide p then iopTimerFlag n 12 5 (withIopTimer s n u stat) else withIopTimer s n u stat) =
      withIopTimer s n { u with mode := if p then iopFlagMode 12 5 u.mode else u.mode }
        (iopRequested n (decide p && iopFlagFires 12 5 u.mode) stat) := by
  by_cases hp : p
  · simp only [hp, decide_true, if_true, Bool.true_and, iopTimerFlag_withIopTimer]
  · simp only [hp, decide_false, if_false, Bool.false_and, iopRequested, Bool.false_eq_true]

theorem iopTimerIncrement_eq : iopTimerIncrement n s =
    withIopTimer s n (iopCounted n (s.iopTimer n))
      (iopRequested n (iopCountRequests n (s.iopTimer n)) s.iopIntc.stat) := by
  have start (u : IopTimer) : s.setIopTimer n u = withIopTimer s n u s.iopIntc.stat := rfl
  simp only [iopTimerIncrement, start, iopTimerTarget_withIopTimer, iopTimerFlag_overflow, iopRequested_iopRequested]
  rfl

theorem iopTimerIncrement_iopTimer (m : Fin 6) : (iopTimerIncrement n s).iopTimer m =
    if m = n then iopCounted n (s.iopTimer n) else s.iopTimer m := by
  rw [iopTimerIncrement_eq]
  exact iopTimer_setIopTimer s n m _

theorem iopTimerIncrement_stat (j : Nat) : (iopTimerIncrement n s).iopIntc.stat.getLsbD j =
    if j = iopTimerSource n then s.iopIntc.stat.getLsbD j || iopCountRequests n (s.iopTimer n)
    else s.iopIntc.stat.getLsbD j := by
  rw [iopTimerIncrement_eq]
  exact getLsbD_iopRequested n _ _ j

end

/-- MODE after one count, bit by bit. -/
theorem getLsbD_iopCounted_mode (n : Fin 6) (t : IopTimer) {j : Nat} (hj : j < 32) :
    (iopCounted n t).mode.getLsbD j =
      if j = 10 then t.mode.getLsbD 10 || ((decide (iopCount n t = t.target) && t.mode.getLsbD 4) ||
        (decide (t.count = iopTimerMax n) && t.mode.getLsbD 5))
      else if j = 11 then t.mode.getLsbD 11 || decide (iopCount n t = t.target)
      else if j = 12 then t.mode.getLsbD 12 || decide (t.count = iopTimerMax n)
      else t.mode.getLsbD j := by
  have target {j : Nat} (hj : j < 32) : (iopTargetMode n t).getLsbD j =
      if j = 11 then t.mode.getLsbD 11 || decide (iopCount n t = t.target)
      else if j = 10 then t.mode.getLsbD 10 || (decide (iopCount n t = t.target) && t.mode.getLsbD 4)
      else t.mode.getLsbD j := by
    unfold iopTargetMode
    by_cases h : iopCount n t = t.target
    · simp only [h, if_true, decide_true, Bool.or_true, Bool.true_and, getLsbD_iopFlagMode (.inl rfl) _ _ hj]
    · simp only [h, if_false, decide_false, Bool.or_false, Bool.false_and]
      split
      · next h11 => rw [h11]
      · split
        · next h10 => rw [h10]
        · rfl
  have overflow : (iopCounted n t).mode.getLsbD j =
      if j = 12 then (iopTargetMode n t).getLsbD 12 || decide (t.count = iopTimerMax n)
      else if j = 10 then
        (iopTargetMode n t).getLsbD 10 || (decide (t.count = iopTimerMax n) && (iopTargetMode n t).getLsbD 5)
      else (iopTargetMode n t).getLsbD j := by
    unfold iopCounted
    by_cases h : t.count = iopTimerMax n
    · simp only [h, if_true, decide_true, Bool.or_true, Bool.true_and, getLsbD_iopFlagMode (.inr rfl) _ _ hj]
    · simp only [h, if_false, decide_false, Bool.or_false, Bool.false_and]
      split
      · next h12 => rw [h12]
      · split
        · next h10 => rw [h10]
        · rfl
  rw [overflow, target (show 12 < 32 by omega), target (show 10 < 32 by omega), target (show 5 < 32 by omega),
    target hj]
  by_cases h10 : j = 10
  · subst h10; simp [Bool.or_assoc]
  · by_cases h11 : j = 11
    · subst h11; simp
    · by_cases h12 : j = 12
      · subst h12; simp
      · simp only [if_neg h10, if_neg h11, if_neg h12]

/-- The request of one count: a flag set under its enable, where MODE repeats or has not yet asked. -/
theorem iopCountRequests_eq (n : Fin 6) (t : IopTimer) : iopCountRequests n t =
    (((decide (iopCount n t = t.target) && t.mode.getLsbD 4) ||
        (decide (t.count = iopTimerMax n) && t.mode.getLsbD 5)) &&
      (t.mode.getLsbD 6 || !t.mode.getLsbD 10)) := by
  rw [iopCountRequests, iopFlagFires_eq (.inl rfl), iopFlagFires_eq (.inr rfl), iopTargetMode]
  by_cases h : iopCount n t = t.target
  · simp only [h, if_true, decide_true, Bool.true_and, getLsbD_iopFlagMode (.inl rfl) 4 t.mode (show 5 < 32 by omega),
      getLsbD_iopFlagMode (.inl rfl) 4 t.mode (show 6 < 32 by omega),
      getLsbD_iopFlagMode (.inl rfl) 4 t.mode (show 10 < 32 by omega)]
    generalize decide (t.count = iopTimerMax n) = o
    cases t.mode.getLsbD 4 <;> cases t.mode.getLsbD 6 <;> cases t.mode.getLsbD 10 <;> simp
  · simp only [h, if_false, decide_false, Bool.false_and, Bool.false_or, Bool.and_assoc]

/-! ## A cycle of the IOP timers (R572) -/

theorem iopTimersCycle_iopTimer (s : State) (n : Fin 6) :
    (iopTimersCycle s).iopTimer n = iopCounted n (s.iopTimer n) := by
  fin_cases n <;> simp [iopTimersCycle, iopTimerIncrement_iopTimer]

theorem iopTimersCycle_source (s : State) (n : Fin 6) :
    (iopTimersCycle s).iopIntc.stat.getLsbD (iopTimerSource n) =
      (s.iopIntc.stat.getLsbD (iopTimerSource n) || iopCountRequests n (s.iopTimer n)) := by
  simp only [iopTimersCycle, iopTimerIncrement_stat, iopTimerIncrement_iopTimer]
  fin_cases n <;> rfl

theorem iopTimersCycle_otherSource (s : State) {j : Nat} (hj : ∀ n : Fin 6, j ≠ iopTimerSource n) :
    (iopTimersCycle s).iopIntc.stat.getLsbD j = s.iopIntc.stat.getLsbD j := by
  simp only [iopTimersCycle, iopTimerIncrement_stat, if_neg (hj _)]

theorem iopTimersCycle_intc (s : State) :
    (iopTimersCycle s).iopIntc.mask = s.iopIntc.mask ∧ (iopTimersCycle s).iopIntc.ctrl = s.iopIntc.ctrl := by
  simp only [iopTimersCycle, iopTimerIncrement_eq]
  exact ⟨rfl, rfl⟩

theorem iopTimerMax_eq (n : Fin 6) : (if n.val < 3 then 0x0000FFFF#32 else 0xFFFFFFFF#32) = iopTimerMax n := by
  simp only [iopTimerMax, Nat.lt_succ_iff]

theorem iopTimerSource_eq (n : Fin 6) : (if n.val < 3 then 4 + n.val else 14 + (n.val - 3)) = iopTimerSource n := by
  unfold iopTimerSource
  split <;> split <;> omega

/-! ## Count (R561) -/

theorem countTick_iop {s : State} (h : s.cpu = .iop) : countTick s = s := by simp [countTick, h]

theorem countTick_ee {s : State} (h : s.cpu = .ee) : countTick s =
    { s with ee := { s.ee with
        count := s.ee.count + 1
        ctl := { s.ee.ctl with cause := raised (decide (s.ee.count + 1 = s.ee.compare)) 15 s.ee.ctl.cause } } } := by
  simp [countTick, h, raised]

/-- Settles O58: each clause is the closed form of one count, or of a block's cycle, read bit by bit. -/
theorem timersAndCountAdvance : Obligations.TimersAndCountAdvance := by
  refine ⟨?eeCount, ?iopCount, ?eeCycle, ?iopCycle, ?count⟩
  case eeCount =>
    intro s n t count equal setEqual setOverflow
    refine ⟨_, _, eeTimerIncrement_eq n s, fun j hj => ?_, fun j _ => ?_⟩
    · exact getLsbD_eeCounted_mode t hj
    · rw [getLsbD_eeRequested, eeCountRequests, ← Bool.or_assoc]
      rfl
  case iopCount =>
    intro s n t max source count equal overflow event request
    have hmax : max = iopTimerMax n := iopTimerMax_eq n
    have hsource : source = iopTimerSource n := iopTimerSource_eq n
    have hcount : count = iopCount n t := congrArg (fun m => (t.count + 1) &&& m) hmax
    have hequal : equal = decide (iopCount n t = t.target) := decide_eq_decide.2 (by rw [hcount])
    have hoverflow : overflow = decide (t.count = iopTimerMax n) := decide_eq_decide.2 (by rw [hmax])
    refine ⟨(iopCounted n t).mode, iopRequested n (iopCountRequests n t) s.iopIntc.stat, ?_, fun j hj => ?_,
      fun j _ => ?_⟩
    · rw [iopTimerIncrement_eq, hequal, hcount]
      rfl
    · rw [getLsbD_iopCounted_mode n t hj]
      simp only [event, hequal, hoverflow]
    · rw [getLsbD_iopRequested, iopCountRequests_eq, hsource]
      simp only [request, event, hequal, hoverflow]
  case eeCycle =>
    intro s clks runs div counts counted t
    have ht : t = updateEeTimers eeCycled eeCycleRequests s := eeTimersCycle_eq_update s
    have hdiv (n : Fin 4) : div n = timerDiv (timerClks (s.eeTimer n).mode) := by
      show (if clks n = 0 then 1 else if clks n = 1 then 16 else 256) = timerDiv (clks n)
      generalize clks n = k
      revert k
      decide
    have hcounts (n : Fin 4) : counts n = eeCounts (s.eeTimer n) := by
      simp only [counts, hdiv]
      rfl
    have htimer (n : Fin 4) :
        (s.setEeTimer n { s.eeTimer n with pre := 0 }).eeTimer n = { s.eeTimer n with pre := 0 } :=
      (eeTimer_setEeTimer _ _ _ _).trans (if_pos rfl)
    refine ⟨fun n => ?_, fun n => ?_, fun j hj => ?_, ?_, ?_⟩
    · rw [ht, updateEeTimers_eeTimer, hcounts, show (counted n).eeTimer n = eeCounted { s.eeTimer n with pre := 0 } from
        (eeTimerIncrement_eeTimer n _).trans (by rw [htimer])]
      rfl
    · rw [ht, updateEeTimers_source, hcounts, eeCycleRequests,
        show (counted n).eeIntc.stat.getLsbD (9 + n.val) =
            (s.eeIntc.stat.getLsbD (9 + n.val) || eeCountRequests { s.eeTimer n with pre := 0 }) from
          (eeTimerIncrement_source n _).trans (by rw [htimer]; rfl)]
      cases eeCounts (s.eeTimer n) <;> simp
    · rw [ht, updateEeTimers_otherSource _ _ _ hj]
    · rw [ht, updateEeTimers_mask]
    · obtain ⟨v, i, hv⟩ := eeTimersCycle_only s
      show { eeTimersCycle s with eeTimers := s.eeTimers, eeIntc := s.eeIntc } = s
      rw [hv]
  case iopCycle =>
    intro s source t
    have hsource : source = iopTimerSource := funext iopTimerSource_eq
    have ht : t = iopTimersCycle s := rfl
    clear_value t source
    rw [hsource, ht]
    obtain ⟨hmask, hctrl⟩ := iopTimersCycle_intc s
    refine ⟨fun n => ?_, fun n => ?_, fun j hj => iopTimersCycle_otherSource s hj, hmask, hctrl, ?_⟩
    · rw [iopTimerIncrement_iopTimer, if_pos rfl, iopTimersCycle_iopTimer]
    · rw [iopTimerIncrement_stat, if_pos rfl, iopTimersCycle_source]
    · obtain ⟨v, i, hv⟩ := iopTimersCycle_only s
      rw [hv]
  case count =>
    refine fun s => ⟨countTick_iop, fun hc => ⟨_, countTick_ee hc, fun j hj => ?_⟩⟩
    rw [getLsbD_raised _ _ _ hj]
    by_cases h15 : j = 15
    · subst h15; rfl
    · simp only [if_neg h15]

end Sys2Proof.Machine
end

section
/-! SUPPORT. The scheduler's queue, the events, and the shares of a quantum, and their statements (60_exceptions.md
R453, R471, R581 to R583, R591, R592). -/

namespace Sys2Proof.Machine

/-! ## The queue (R581) -/

/-- Ordered insertion into a sorted queue: after the events that are not later, before those that are. -/
theorem insertEvent_eq_filter (e : Event) {q : List Event}
    (h : q.Pairwise (fun e f => e.deadline.toNat ≤ f.deadline.toNat)) :
    insertEvent e q = q.filter (fun f => decide (f.deadline.toNat ≤ e.deadline.toNat)) ++ [e] ++
      q.filter (fun f => decide (e.deadline.toNat < f.deadline.toNat)) := by
  induction q with
  | nil => rfl
  | cons g q ih =>
    obtain ⟨hg, hq⟩ := List.pairwise_cons.1 h
    unfold insertEvent
    split
    next hle =>
      rw [List.filter_cons_of_pos (by simpa using hle), List.filter_cons_of_neg (by simpa using hle), ih hq]
      rfl
    next hlt =>
      have later : ∀ f ∈ g :: q, e.deadline.toNat < f.deadline.toNat := by
        intro f hf
        rcases List.mem_cons.1 hf with rfl | hf
        · omega
        · have := hg f hf
          omega
      rw [List.filter_eq_nil_iff.2 fun f hf => by simpa using later f hf,
        List.filter_eq_self.2 fun f hf => by simpa using later f hf]
      rfl

theorem mem_cancelEvent {s : State} {id : Nat} {e : Event} :
    e ∈ (s.cancelEvent id).sched.queue ↔ e ∈ s.sched.queue ∧ e.id ≠ some id := by
  rw [State.cancelEvent, List.mem_filter, bne_iff_ne]

/-! ## Events (R582, R591, R592) -/

section
variable {s : State} {e : Event} {q : List Event}

theorem step_events (h : s.turn = .events) : step s = .next (eventsTurn s) := by
  simp only [step, agentAction, h]
  rfl

theorem step_fire (hturn : s.turn = .events) (hq : s.sched.queue = e :: q)
    (hdue : e.deadline.toNat ≤ s.sched.now.toNat) :
    step s = .next (invokeEvent e.kind { s with sched := { s.sched with queue := q } }) := by
  have due : s.dueEvent = some e := by simp only [State.dueEvent, hq, if_pos hdue]
  rw [step_events hturn, eventsTurn, due]
  simp only [fireEvent, hq, List.tail_cons]

theorem step_quantumEnd (hturn : s.turn = .events)
    (h : ∀ e, s.sched.queue.head? = some e → s.sched.now.toNat < e.deadline.toNat) :
    step s = .next (endQuantum s) := by
  have none_due : s.dueEvent = none := by
    unfold State.dueEvent
    split
    · rfl
    · next e q hq =>
      have := h e (by rw [hq]; rfl)
      rw [if_neg (by omega)]
  rw [step_events hturn, eventsTurn, none_due]

end

/-- Settles O59: the queue by `insertEvent_eq_filter`, an event by its kind; an hblank event counts the timers that wait
for it, as one count does. -/
theorem schedulerOrdersAndFiresEvents : Obligations.SchedulerOrdersAndFiresEvents := by
  refine ⟨?add, fun s id e => ⟨mem_cancelEvent, List.filter_sublist⟩, ?fire, fun s => step_quantumEnd⟩
  case add =>
    intro s delay id kind hsorted e
    rw [State.addEvent, insertEvent_eq_filter _ hsorted]
  case fire =>
    intro s ⟨deadline, id, kind⟩ q hturn hq hdue
    refine ⟨_, step_fire hturn hq hdue, ?_⟩
    cases kind with
    | vblankStart => exact ⟨hturn, rfl⟩
    | vblankEnd => exact ⟨hturn, rfl⟩
    | hblank =>
      have fired : invokeEvent .hblank { s with sched := { s.sched with queue := q } } =
          eeTimersHblank { s with sched := { s.sched with
            queue := insertEvent ⟨s.sched.now + 9362#64, none, .hblank⟩ q } } := rfl
      rw [fired]
      obtain ⟨v, i, hv⟩ := eeTimersHblank_only { s with sched := { s.sched with
        queue := insertEvent ⟨s.sched.now + 9362#64, none, .hblank⟩ q } }
      refine ⟨by rw [hv]; exact hturn, by rw [hv], fun n => ?_, fun n => ?_, fun j hj => ?_, ?_, by rw [hv]⟩
      · rw [eeTimersHblank_eq_update, updateEeTimers_eeTimer, eeTimerIncrement_eeTimer]
        rfl
      · rw [eeTimersHblank_eq_update, updateEeTimers_source, eeTimerIncrement_source]
        simp only [← show eeCountsHblank (s.eeTimer n) = ((s.eeTimer n).mode.getLsbD 7 &&
          (s.eeTimer n).mode.extractLsb' 0 2 == 3) from rfl]
        show (s.eeIntc.stat.getLsbD (9 + n.val) || (eeCountsHblank (s.eeTimer n) && eeCountRequests (s.eeTimer n))) = _
        cases eeCountsHblank (s.eeTimer n)
        · exact Bool.or_false _
        · rw [Bool.true_and, if_pos rfl]
      · rw [eeTimersHblank_eq_update, updateEeTimers_otherSource _ _ _ hj]
      · rw [eeTimersHblank_eq_update, updateEeTimers_mask]

/-! ## The driver's position (R583) -/

section
variable {s t : State}

/-- The position after a tick. -/
theorem endTick_position (s : State) : (endTick s).turn =
      (if s.ticks + 1 < turnBudget s.turn then s.turn else nextTurn s.turn) ∧
    (endTick s).ticks = if s.ticks + 1 < turnBudget s.turn then s.ticks + 1 else 0 := by
  unfold endTick
  split <;> exact ⟨rfl, rfl⟩

/-- Outside the events turn a step is an action that keeps the position, then the end of a tick. -/
theorem step_endTick (hturn : s.turn ≠ .events) (h : step s = .next t) :
    ∃ u, u.turn = s.turn ∧ u.ticks = s.ticks ∧ t = endTick u := by
  cases step_cases h with
  | cpu c i u _ hu =>
    obtain ⟨-, -, -, hturn, hticks, -⟩ := effect_position hu
    have kept : (finishStep u).turn = u.turn ∧ (finishStep u).ticks = u.ticks := by
      have only := finishStep_only u
      generalize finishStep u = v at only
      cases only <;> exact ⟨rfl, rfl⟩
    exact ⟨_, kept.1.trans hturn, kept.2.trans hticks, rfl⟩
  | eeDmac u _ hu =>
    obtain ⟨d, m, o, n, hv⟩ := eeDmacTick_only hu
    exact ⟨u, by rw [hv], by rw [hv], rfl⟩
  | eeTimers =>
    obtain ⟨v, i, hv⟩ := eeTimersCycle_only s
    exact ⟨_, by rw [hv], by rw [hv], rfl⟩
  | iopDmac u _ hu =>
    obtain ⟨d, i, m, o, n, hv⟩ := iopDmacTick_only hu
    exact ⟨u, by rw [hv], by rw [hv], rfl⟩
  | iopTimers =>
    obtain ⟨v, i, hv⟩ := iopTimersCycle_only s
    exact ⟨_, by rw [hv], by rw [hv], rfl⟩
  | scheduler =>
    obtain ⟨e, i, x, q, hv⟩ := schedulerPhase_only s
    exact ⟨_, by rw [hv], by rw [hv], rfl⟩
  | fire e ha => exact absurd ha hturn
  | quantum ha => exact absurd ha hturn

/-- After `k` steps from position `j` of a phase the driver stands at position `j + k`, or at the next phase. -/
theorem runSteps_position (hturn : s.turn ≠ .events) {k : Nat} (hk : s.ticks + k ≤ turnBudget s.turn)
    (hticks : s.ticks < turnBudget s.turn) (h : runSteps k s = .next t) :
    (s.ticks + k < turnBudget s.turn → t.turn = s.turn ∧ t.ticks = s.ticks + k) ∧
      (s.ticks + k = turnBudget s.turn → t.turn = nextTurn s.turn ∧ t.ticks = 0) := by
  induction k generalizing s with
  | zero =>
    cases h
    exact ⟨fun _ => ⟨rfl, rfl⟩, fun he => by omega⟩
  | succ k ih =>
    obtain ⟨v, hv, hrest⟩ := andThen_eq_next.1 h
    obtain ⟨u, huturn, huticks, rfl⟩ := step_endTick hturn hv
    obtain ⟨pturn, pticks⟩ := endTick_position u
    rw [huturn, huticks] at pturn pticks
    by_cases hlast : s.ticks + 1 < turnBudget s.turn
    · rw [if_pos hlast] at pturn pticks
      have step := ih (s := endTick u) (by rw [pturn]; exact hturn) (by rw [pturn, pticks]; omega)
        (by rw [pturn, pticks]; exact hlast) hrest
      rw [pturn, pticks] at step
      rwa [show s.ticks + (k + 1) = s.ticks + 1 + k by omega]
    · obtain rfl : k = 0 := by omega
      rw [if_neg hlast] at pturn pticks
      cases hrest
      exact ⟨fun hlt => absurd hlt hlast, fun _ => ⟨pturn, pticks⟩⟩

end

/-! ## The devices' turns (R471, R543, R572) -/

/-- A turn but the events' ends with the end of a tick. -/
theorem step_eq_endTick {s : State} (h : s.turn ≠ .events) :
    step s = andThen (agentAction s) fun t => .next (endTick t) := by
  have after (t : State) : afterAction s.turn t = endTick t := by
    unfold afterAction
    split
    next he => exact absurd he h
    next => rfl
  simp only [step, after]

/-- The end of a tick at a position that the tick kept. -/
theorem endTick_moved {s t : State} (hturn : t.turn = s.turn) (hticks : t.ticks = s.ticks) :
    endTick t = if s.ticks + 1 < turnBudget s.turn then { t with ticks := s.ticks + 1 }
      else { t with turn := nextTurn s.turn, ticks := 0 } := by
  rw [endTick, hturn, hticks]

/-- Two continuations that agree on what an outcome can be. -/
theorem andThen_congr {o : Out} {f g : State → Out} (h : ∀ t, o = .next t → f t = g t) : andThen o f = andThen o g := by
  cases o with
  | next t => exact h t rfl
  | fault => rfl
  | refused => rfl

theorem foldl_andThen_stop {α : Type} (f : α → State → Out) (l : List α) {o : Out} (h : ∀ k, andThen o k = o) :
    l.foldl (fun o a => andThen o (f a)) o = o := by
  induction l with
  | nil => rfl
  | cons a l ih => rw [List.foldl_cons, h, ih]

theorem eeChannelsTick_eq_foldl (chs : List (Fin 10)) (s : State) :
    eeChannelsTick chs s = chs.foldl (fun o ch => andThen o (eeChannelTick ch)) (.next s) := by
  induction chs generalizing s with
  | nil => rfl
  | cons ch chs ih =>
    rw [List.foldl_cons, eeChannelsTick, show andThen (.next s) (eeChannelTick ch) = eeChannelTick ch s from rfl]
    cases eeChannelTick ch s with
    | next t => exact ih t
    | fault f => exact (foldl_andThen_stop _ _ fun _ => rfl).symm
    | refused r => exact (foldl_andThen_stop _ _ fun _ => rfl).symm

theorem iopChannelsTick_eq_foldl (chs : List (Fin 13)) (s : State) :
    iopChannelsTick chs s = chs.foldl (fun o ch => andThen o (iopChannelTick ch)) (.next s) := by
  induction chs generalizing s with
  | nil => rfl
  | cons ch chs ih =>
    rw [List.foldl_cons, iopChannelsTick, show andThen (.next s) (iopChannelTick ch) = iopChannelTick ch s from rfl]
    cases iopChannelTick ch s with
    | next t => exact ih t
    | fault f => exact (foldl_andThen_stop _ _ fun _ => rfl).symm
    | refused r => exact (foldl_andThen_stop _ _ fun _ => rfl).symm

theorem eeChannelTick_stopped {s : State} {ch : Fin 10} (h : (s.eeChannel ch).chcr.getLsbD 8 = false) :
    eeChannelTick ch s = .next s := if_pos h

theorem iopChannelTick_stopped {s : State} {ch : Fin 13} (h : (s.iopChannel ch).chcr.getLsbD 24 = false) :
    iopChannelTick ch s = .next s := if_pos h

/-! ## The external requests (R453) -/

theorem requestAll_eeStat (rs : List IrqRequest) (s : State) (j : Fin 15) :
    (requestAll rs s).eeIntc.stat.getLsbD j = (s.eeIntc.stat.getLsbD j || decide (IrqRequest.ee j ∈ rs)) := by
  induction rs generalizing s with
  | nil => simp [requestAll]
  | cons r rs ih =>
    rw [requestAll, ih]
    cases r with
    | ee source =>
      have bit : (1#15 <<< source.val).getLsbD j = decide (IrqRequest.ee j = .ee source) := by
        rw [BitVec.getLsbD_shiftLeft, BitVec.getLsbD_one, Bool.eq_iff_iff]
        simp [Fin.ext_iff]
        omega
      show ((s.eeIntc.stat ||| (1#15 <<< source.val)).getLsbD j || _) = _
      rw [BitVec.getLsbD_or, bit, Bool.or_assoc, ← Bool.decide_or, decide_eq_decide.2 List.mem_cons]
    | iop source =>
      have other : (IrqRequest.ee j ∈ IrqRequest.iop source :: rs) ↔ IrqRequest.ee j ∈ rs := by simp
      rw [decide_eq_decide.2 other]
      rfl

theorem requestAll_iopStat (rs : List IrqRequest) (s : State) (j : Fin 26) :
    (requestAll rs s).iopIntc.stat.getLsbD j = (s.iopIntc.stat.getLsbD j || decide (IrqRequest.iop j ∈ rs)) := by
  induction rs generalizing s with
  | nil => simp [requestAll]
  | cons r rs ih =>
    rw [requestAll, ih]
    cases r with
    | iop source =>
      have bit : (1#32 <<< source.val).getLsbD j = decide (IrqRequest.iop j = .iop source) := by
        rw [BitVec.getLsbD_shiftLeft, BitVec.getLsbD_one, Bool.eq_iff_iff]
        simp [Fin.ext_iff]
        omega
      show ((s.iopIntc.stat ||| (1#32 <<< source.val)).getLsbD j || _) = _
      rw [BitVec.getLsbD_or, bit, Bool.or_assoc, ← Bool.decide_or, decide_eq_decide.2 List.mem_cons]
    | ee source =>
      have other : (IrqRequest.iop j ∈ IrqRequest.ee source :: rs) ↔ IrqRequest.iop j ∈ rs := by simp
      rw [decide_eq_decide.2 other]
      rfl

theorem requestAll_masks (rs : List IrqRequest) (s : State) :
    (requestAll rs s).eeIntc.mask = s.eeIntc.mask ∧ (requestAll rs s).iopIntc.mask = s.iopIntc.mask := by
  induction rs generalizing s with
  | nil => exact ⟨rfl, rfl⟩
  | cons r rs ih =>
    obtain ⟨hee, hiop⟩ := ih (s.requestExternal r)
    cases r <;> exact ⟨hee, hiop⟩

/-- Settles O60: the positions by induction on the steps, a device's turn by its action's frame, the external requests
one by one. -/
theorem quantumGivesEveryAgentItsShare : Obligations.QuantumGivesEveryAgentItsShare := by
  refine ⟨?position, ?devices, ?channels, ?scheduler⟩
  case position =>
    intro s t agent next n k hagent hturn hticks h
    have phases : n = turnBudget agent ∧ next = nextTurn agent ∧ agent ≠ .events := by
      simp only [List.mem_cons, Prod.mk.injEq, List.not_mem_nil, or_false] at hagent
      rcases hagent with ⟨rfl, rfl, rfl⟩ | ⟨rfl, rfl, rfl⟩ | ⟨rfl, rfl, rfl⟩ | ⟨rfl, rfl, rfl⟩ | ⟨rfl, rfl, rfl⟩ |
        ⟨rfl, rfl, rfl⟩ | ⟨rfl, rfl, rfl⟩ <;> decide
    obtain ⟨rfl, rfl, hevents⟩ := phases
    subst hturn
    have position (hk : k ≤ turnBudget s.turn) := runSteps_position hevents (k := k) (by rw [hticks]; omega)
      (by rw [hticks]; exact turnBudget_pos _) h
    rw [hticks, Nat.zero_add] at position
    exact ⟨fun hk => (position (by omega)).1 hk, fun hk => (position (by omega)).2 hk⟩
  case devices =>
    intro s moved
    refine ⟨fun h => ?_, fun h => ?_, fun h => ?_, fun h => ?_⟩
    · rw [step_eq_endTick (by rw [h]; decide)]
      simp only [agentAction, h]
      refine andThen_congr fun t ht => ?_
      obtain ⟨d, m, o, n, hv⟩ := eeDmacTick_only ht
      rw [endTick_moved (s := s) (by rw [hv]) (by rw [hv]), h]
      rfl
    · rw [step_eq_endTick (by rw [h]; decide)]
      simp only [agentAction, h]
      obtain ⟨v, i, hv⟩ := eeTimersCycle_only s
      rw [andThen, endTick_moved (s := s) (by rw [hv]) (by rw [hv]), h]
      rfl
    · rw [step_eq_endTick (by rw [h]; decide)]
      simp only [agentAction, h]
      refine andThen_congr fun t ht => ?_
      obtain ⟨d, i, m, o, n, hv⟩ := iopDmacTick_only ht
      rw [endTick_moved (s := s) (by rw [hv]) (by rw [hv]), h]
      rfl
    · rw [step_eq_endTick (by rw [h]; decide)]
      simp only [agentAction, h]
      obtain ⟨v, i, hv⟩ := iopTimersCycle_only s
      rw [andThen, endTick_moved (s := s) (by rw [hv]) (by rw [hv]), h]
      rfl
  case channels =>
    exact fun s => ⟨eeChannelsTick_eq_foldl _ s, iopChannelsTick_eq_foldl _ s, fun ch => eeChannelTick_stopped,
      fun ch => iopChannelTick_stopped⟩
  case scheduler =>
    intro s h
    have hstep : step s = .next (endTick (schedulerPhase s)) := by simp only [step, agentAction, h]; rfl
    obtain ⟨a, n, hend⟩ := endTick_eq (schedulerPhase s)
    rw [hend] at hstep
    obtain ⟨e, i, hall⟩ := requestAll_only (s.extIrq.headD []) s
    obtain ⟨heeMask, hiopMask⟩ := requestAll_masks (s.extIrq.headD []) s
    have frame : (schedulerPhase s).ee = s.ee ∧ (schedulerPhase s).iop = s.iop ∧ (schedulerPhase s).mem = s.mem := by
      rw [schedulerPhase, hall]
      exact ⟨rfl, rfl, rfl⟩
    exact ⟨_, hstep, schedulerPhase_sched s, rfl, requestAll_eeStat _ s, requestAll_iopStat _ s, frame.1, frame.2.1,
      frame.2.2, heeMask, hiopMask⟩

end Sys2Proof.Machine
end

section
/-! SUPPORT. Ticks of a DMA controller one after the other, one channel alone, writes of quadword after quadword, and
the statement about an EE transfer (60_exceptions.md R471, R491, R492, R497; 20_memory.md R134). -/

namespace Sys2Proof.Machine

/-! ## Ticks one after the other (R471) -/

/-- `k` ticks, the last one outermost. -/
def runTicks (tick : State → Out) : Nat → State → Out
  | 0, s => .next s
  | k + 1, s => andThen (runTicks tick k s) tick

theorem runTicks_first (tick : State → Out) (k : Nat) (s : State) :
    andThen (tick s) (runTicks tick k) = runTicks tick (k + 1) s := by
  induction k with
  | zero =>
    show andThen (tick s) Host.Outcome.next = tick s
    cases tick s <;> rfl
  | succ k ih =>
    rw [runTicks, ← ih, andThen_assoc]
    rfl

theorem eeDmacRun_eq (k : Nat) (s : State) : eeDmacRun k s = runTicks eeDmacTick k s := by
  induction k generalizing s with
  | zero => rfl
  | succ k ih => rw [eeDmacRun, funext ih, runTicks_first]

theorem iopDmacRun_eq (k : Nat) (s : State) : iopDmacRun k s = runTicks iopDmacTick k s := by
  induction k generalizing s with
  | zero => rfl
  | succ k ih => rw [iopDmacRun, funext ih, runTicks_first]

section
variable {tick : State → Out} {s t : State} {k : Nat}

theorem runTicks_succ (h : runTicks tick k s = .next t) : runTicks tick (k + 1) s = tick t := by
  rw [runTicks, h]
  rfl

/-- A fault ends the run. -/
theorem runTicks_fault {f : Fault} (h : runTicks tick k s = .fault f) {j : Nat} (hj : k ≤ j) :
    runTicks tick j s = .fault f := by
  induction j, hj using Nat.le_induction with
  | base => exact h
  | succ j _ ih => rw [runTicks, ih]; rfl

/-- A state that a tick leaves alone stays. -/
theorem runTicks_idle (h : runTicks tick k s = .next t) (hidle : tick t = .next t) {j : Nat} (hj : k ≤ j) :
    runTicks tick j s = .next t := by
  induction j, hj using Nat.le_induction with
  | base => exact h
  | succ j _ ih => rw [runTicks_succ ih, hidle]

end

/-! ## One channel alone (R471) -/

section
variable {ι : Type} {tick : ι → State → Out} {chs : List ι} {s : State}

theorem foldl_tick_idle (h : ∀ c ∈ chs, tick c s = .next s) :
    chs.foldl (fun o c => andThen o (tick c)) (.next s) = .next s := by
  induction chs with
  | nil => rfl
  | cons c chs ih =>
    rw [List.foldl_cons, show andThen (.next s) (tick c) = .next s from h c (List.mem_cons_self ..)]
    exact ih fun c hc => h c (List.mem_cons_of_mem _ hc)

/-- Where every other channel's tick does nothing, before and after, a tick of the channels is the one channel's. -/
theorem foldl_tick_alone {ch : ι} {o : Out} (hmem : ch ∈ chs) (hnodup : chs.Nodup)
    (hidle : ∀ c, c ≠ ch → tick c s = .next s) (htick : tick ch s = o)
    (hkeep : ∀ t, o = .next t → ∀ c, c ≠ ch → tick c t = .next t) :
    chs.foldl (fun o c => andThen o (tick c)) (.next s) = o := by
  induction chs with
  | nil => cases hmem
  | cons c chs ih =>
    obtain ⟨hc, hnodup⟩ := List.nodup_cons.1 hnodup
    rw [List.foldl_cons, show andThen (.next s) (tick c) = tick c s from rfl]
    by_cases h : c = ch
    · rw [h, htick]
      cases o with
      | next t => exact foldl_tick_idle fun c' hc' => hkeep t rfl c' fun e => hc (h ▸ e ▸ hc')
      | fault f => exact foldl_andThen_stop _ _ fun _ => rfl
      | refused r => exact foldl_andThen_stop _ _ fun _ => rfl
    · rw [hidle c h]
      exact ih ((List.mem_cons.1 hmem).resolve_left (Ne.symm h)) hnodup

end

theorem eeDmacTick_eq_foldl (s : State) :
    eeDmacTick s = (List.finRange 10).foldl (fun o ch => andThen o (eeChannelTick ch)) (.next s) :=
  eeChannelsTick_eq_foldl _ s

theorem eeDmacTick_stopped {s : State} (h : ∀ ch, (s.eeChannel ch).chcr.getLsbD 8 = false) :
    eeDmacTick s = .next s := by
  rw [eeDmacTick_eq_foldl]
  exact foldl_tick_idle fun ch _ => eeChannelTick_stopped (h ch)

theorem eeDmacTick_alone {s : State} {ch : Fin 10} {o : Out}
    (halone : ∀ ch', ch' ≠ ch → (s.eeChannel ch').chcr.getLsbD 8 = false) (htick : eeChannelTick ch s = o)
    (hkeep : ∀ t, o = .next t → ∀ ch', ch' ≠ ch → t.eeChannel ch' = s.eeChannel ch') : eeDmacTick s = o := by
  rw [eeDmacTick_eq_foldl]
  refine foldl_tick_alone (List.mem_finRange ch) (List.nodup_finRange 10)
    (fun c hc => eeChannelTick_stopped (halone c hc)) htick fun t ht c hc => eeChannelTick_stopped ?_
  rw [hkeep t ht c hc]
  exact halone c hc

/-! ## Unit after unit into memory -/

/-- Memory after `k` quadwords, each written where `dst` says. -/
def writeQuads (m : Memory) (dst : Nat → Nat) (val : Nat → Quad) : Nat → Memory
  | 0 => m
  | k + 1 => (writeQuads m dst val k).writeLE (dst k) 16 (val k)

section
variable (m : Memory) (dst : Nat → Nat) (val : Nat → Quad)

theorem read_writeQuads_other {n b : Nat} (h : ∀ k, k < n → b < dst k ∨ dst k + 16 ≤ b) :
    (writeQuads m dst val n).read b = m.read b := by
  induction n with
  | zero => rfl
  | succ n ih =>
    rw [writeQuads, read_writeLE_other _ _ _ _ _ (h n (by omega)), ih fun k hk => h k (by omega)]

/-- A byte that no later quadword hits holds what its own quadword gave. -/
theorem read_writeQuads_last {n k i : Nat} (hk : k < n) (hi : i < 16)
    (h : ∀ k', k < k' → k' < n → dst k + i < dst k' ∨ dst k' + 16 ≤ dst k + i) :
    (writeQuads m dst val n).read (dst k + i) = (val k).extractLsb' (8 * i) 8 := by
  induction n with
  | zero => omega
  | succ n ih =>
    rw [writeQuads]
    by_cases hn : k = n
    · subst hn
      exact read_writeLE_same _ _ _ _ _ hi
    · rw [read_writeLE_other _ _ _ _ _ (h n (by omega) (by omega)), ih (by omega) fun k' h1 h2 => h k' h1 (by omega)]

end

/-- A quadword copied within memory, byte by byte. -/
theorem read_writeLE_readLE (m : Memory) (dst src b : Nat) : (m.writeLE dst 16 (m.readLE src 16)).read b =
    if dst ≤ b ∧ b < dst + 16 then m.read (src + (b - dst)) else m.read b := by
  split
  next h =>
    obtain ⟨i, rfl⟩ := Nat.exists_eq_add_of_le h.1
    rw [read_writeLE_same _ _ _ _ _ (by omega), extract_readLE _ _ _ _ (by omega) (by omega), Nat.add_sub_cancel_left]
  next h => exact read_writeLE_other _ _ _ _ _ (by omega)

/-! ## SADR (R492) -/

theorem toNat_and_sadrMask (a : Word) : (a &&& 0x00003FF0#32).toNat = a.toNat % 0x4000 - a.toNat % 16 := by
  have split : (a &&& 0x00003FF0#32) + (a &&& 0xF#32) = a &&& 0x3FFF#32 := by
    rw [BitVec.add_eq_or_of_and_eq_zero, ← BitVec.and_or_distrib_left]
    · rfl
    · calc (a &&& 0x00003FF0#32) &&& (a &&& 0xF#32) = (a &&& a) &&& (0x00003FF0#32 &&& 0xF#32) := by ac_rfl
        _ = 0#32 := BitVec.and_zero
  have high := toNat_and_mask a 0x3FFF#32 14 rfl
  have low := toNat_and_mask a 0xF#32 4 rfl
  have bound : (a &&& 0x00003FF0#32).toNat ≤ 0x3FF0 := by
    rw [BitVec.toNat_and]
    exact Nat.and_le_right
  have sum := congrArg BitVec.toNat split
  rw [BitVec.toNat_add, high, low] at sum
  omega

/-- SADR after `k` quadwords. -/
def movedSadr (sadr : Word) : Nat → Word
  | 0 => sadr
  | k + 1 => nextSadr (movedSadr sadr k)

/-- What SADR's mask leaves of SADR after `k` quadwords. -/
theorem movedSadr_masked (sadr : Word) (k : Nat) :
    movedSadr sadr k &&& 0x00003FF0#32 = (sadr + BitVec.ofNat 32 (16 * k)) &&& 0x00003FF0#32 := by
  induction k with
  | zero => rw [movedSadr, Nat.mul_zero, BitVec.add_zero]
  | succ k ih =>
    have nats := congrArg BitVec.toNat ih
    apply BitVec.eq_of_toNat_eq
    have sixteen : (16 : Word).toNat = 16 := rfl
    rw [movedSadr, nextSadr, eeSadrMask, BitVec.and_assoc, BitVec.and_self]
    simp only [toNat_and_sadrMask, BitVec.toNat_add, BitVec.toNat_ofNat, sixteen] at nats ⊢
    omega

theorem movedSadr_eq (sadr : Word) (n : Nat) :
    movedSadr sadr n = if n = 0 then sadr else (sadr + BitVec.ofNat 32 (16 * n)) &&& 0x00003FF0#32 := by
  cases n with
  | zero => rfl
  | succ k =>
    rw [if_neg (by omega), ← movedSadr_masked, movedSadr, nextSadr, eeSadrMask, BitVec.and_assoc, BitVec.and_self]

/-- The scratchpad key of the `k`-th quadword. -/
def sprQuad (sadr : Word) (k : Nat) : Nat := 0x70000000 + ((sadr + BitVec.ofNat 32 (16 * k)) &&& 0x00003FF0#32).toNat

theorem sprKey_movedSadr (sadr : Word) (k : Nat) : sprKey (movedSadr sadr k) = sprQuad sadr k := by
  rw [sprKey, eeSadrMask, movedSadr_masked]
  rfl

theorem sprQuad_ge (sadr : Word) (k : Nat) : 0x70000000 ≤ sprQuad sadr k := Nat.le_add_right _ _

/-- Within the scratchpad the quadwords follow one another. -/
theorem sprQuad_eq {sadr : Word} {n k : Nat} (h : (sadr &&& 0x00003FF0#32).toNat + 16 * n ≤ 0x4000) (hk : k < n) :
    sprQuad sadr k = sprQuad sadr 0 + 16 * k := by
  simp only [sprQuad, toNat_and_sadrMask, BitVec.toNat_add, BitVec.toNat_ofNat] at h ⊢
  omega

/-! ## One quadword (R492) -/

theorem dmaWrite16_mapped {s : State} {addr : Word} {key : Nat} {q : Quad} (h : eeDmaKey true addr = some key) :
    dmaWrite16 s addr q = .next { s with mem := s.mem.writeLE key 16 q } := by
  simp only [dmaWrite16, h]

theorem dmaWrite16_unmapped {s : State} {addr : Word} {q : Quad} (h : eeDmaKey true addr = none) :
    dmaWrite16 s addr q = .fault (.unmappedAccess addr 16 true) := by
  simp only [dmaWrite16, h]

/-- The channel with SADR moved on. -/
def sadrMoved (ch : Fin 10) (s : State) : EeChannel :=
  { s.eeChannel ch with sadr := nextSadr (s.eeChannel ch).sadr }

/-- The state after a quadword is moved whose memory side is at `key`. -/
def quadMoved (ch : Fin 10) (key : Nat) (s : State) : State :=
  if ch.val = 8 then
    State.setEeChannel { s with mem := s.mem.writeLE key 16 (s.mem.readLE (sprKey (s.eeChannel ch).sadr) 16) } ch
      (sadrMoved ch s)
  else if ch.val = 9 then
    State.setEeChannel { s with mem := s.mem.writeLE (sprKey (s.eeChannel ch).sadr) 16 (s.mem.readLE key 16) } ch
      (sadrMoved ch s)
  else if eeFromMemory ch (s.eeChannel ch).chcr then s.emitDma (.quad ch.val (s.mem.readLE key 16))
  else { s.afterDraw with mem := s.mem.writeLE key 16 s.nextDraw }

section
variable {s : State} {ch : Fin 10} {key : Nat}

theorem eeFromMemory_eight (h : ch.val = 8) (chcr : Word) : eeFromMemory ch chcr = false := by
  simp only [eeFromMemory, h]

theorem eeFromMemory_nine (h : ch.val = 9) (chcr : Word) : eeFromMemory ch chcr = true := by
  simp only [eeFromMemory, h]

theorem eeMoveQuad_mapped
    (h : eeDmaKey (!eeFromMemory ch (s.eeChannel ch).chcr) (s.eeChannel ch).madr = some key) :
    eeMoveQuad ch s = .next (quadMoved ch key s) := by
  unfold eeMoveQuad quadMoved
  simp only
  split
  next h8 =>
    rw [eeFromMemory_eight h8] at h
    rw [dmaWrite16_mapped h, if_pos h8]
    rfl
  next h9 =>
    rw [eeFromMemory_nine h9] at h
    rw [dmaRead16_mapped h, if_neg (by omega), if_pos h9]
    rfl
  next h8 h9 =>
    rw [if_neg h8, if_neg h9]
    cases hdir : eeFromMemory ch (s.eeChannel ch).chcr <;> rw [hdir] at h
    · rw [if_neg Bool.false_ne_true, if_neg Bool.false_ne_true, dmaWrite16_mapped h]
      rfl
    · rw [if_pos rfl, if_pos rfl, dmaRead16_mapped h]
      rfl

/-- A quadword without a page, or without a writable one where it is written, stops the block (20_memory.md R134). -/
theorem eeMoveQuad_unmapped
    (h : eeDmaKey (!eeFromMemory ch (s.eeChannel ch).chcr) (s.eeChannel ch).madr = none) :
    eeMoveQuad ch s =
      .fault (.unmappedAccess (s.eeChannel ch).madr 16 (!eeFromMemory ch (s.eeChannel ch).chcr)) := by
  unfold eeMoveQuad
  simp only
  split
  next h8 =>
    rw [eeFromMemory_eight h8] at h ⊢
    rw [dmaWrite16_unmapped h]
    rfl
  next h9 =>
    rw [eeFromMemory_nine h9] at h ⊢
    rw [dmaRead16_unmapped h]
    rfl
  next h8 h9 =>
    cases hdir : eeFromMemory ch (s.eeChannel ch).chcr <;> rw [hdir] at h
    · rw [if_neg Bool.false_ne_true, dmaWrite16_unmapped h]
      rfl
    · rw [if_pos rfl, dmaRead16_unmapped h]
      rfl

theorem quadMoved_channel : (quadMoved ch key s).eeChannel ch =
    { s.eeChannel ch with sadr := if 8 ≤ ch.val then nextSadr (s.eeChannel ch).sadr else (s.eeChannel ch).sadr } := by
  unfold quadMoved
  split
  next h8 => rw [eeChannel_setEeChannel, if_pos rfl, if_pos (by omega)]; rfl
  next h8 =>
    split
    next h9 => rw [eeChannel_setEeChannel, if_pos rfl, if_pos (by omega)]; rfl
    next h9 =>
      rw [if_neg (show ¬ 8 ≤ ch.val by omega)]
      split <;> rfl

theorem quadMoved_otherChannel {ch' : Fin 10} (h : ch' ≠ ch) :
    (quadMoved ch key s).eeChannel ch' = s.eeChannel ch' := by
  unfold quadMoved
  split
  · rw [eeChannel_setEeChannel, if_neg h]; rfl
  · split
    · rw [eeChannel_setEeChannel, if_neg h]; rfl
    · split <;> rfl

theorem quadMoved_dStat : (quadMoved ch key s).eeDmac.dStat = s.eeDmac.dStat := by
  unfold quadMoved
  split
  · rfl
  · split
    · rfl
    · split <;> rfl

theorem quadMoved_toPort (hch : ch.val < 8) (hdir : eeFromMemory ch (s.eeChannel ch).chcr = true) :
    quadMoved ch key s = s.emitDma (.quad ch.val (s.mem.readLE key 16)) := by
  rw [quadMoved, if_neg (by omega), if_neg (by omega), if_pos hdir]

theorem quadMoved_fromPort (hch : ch.val < 8) (hdir : eeFromMemory ch (s.eeChannel ch).chcr = false) :
    quadMoved ch key s = { s.afterDraw with mem := s.mem.writeLE key 16 s.nextDraw } := by
  rw [quadMoved, if_neg (by omega), if_neg (by omega), if_neg (by rw [hdir]; exact Bool.false_ne_true)]

theorem quadMoved_scratchpad_mem (hch : 8 ≤ ch.val) : (quadMoved ch key s).mem =
    s.mem.writeLE (if ch.val = 8 then key else sprKey (s.eeChannel ch).sadr) 16
      (s.mem.readLE (if ch.val = 8 then sprKey (s.eeChannel ch).sadr else key) 16) := by
  unfold quadMoved
  by_cases h8 : ch.val = 8
  · simp only [if_pos h8]; rfl
  · simp only [if_neg h8, if_pos (show ch.val = 9 by omega)]; rfl

theorem quadMoved_scratchpad_history (hch : 8 ≤ ch.val) :
    (quadMoved ch key s).dmaOut = s.dmaOut ∧ (quadMoved ch key s).draws = s.draws := by
  unfold quadMoved
  by_cases h8 : ch.val = 8
  · rw [if_pos h8]; exact ⟨rfl, rfl⟩
  · rw [if_neg h8, if_pos (show ch.val = 9 by omega)]; exact ⟨rfl, rfl⟩

/-- An Active tick with a quadword left moves it (R491). -/
theorem eeActiveTick_moves (hqwc : (s.eeChannel ch).qwc ≠ 0)
    (h : eeDmaKey (!eeFromMemory ch (s.eeChannel ch).chcr) (s.eeChannel ch).madr = some key) :
    eeActiveTick ch s = .next (eeCheckDone ch (eeAdvance ch (quadMoved ch key s))) := by
  rw [eeActiveTick, if_neg hqwc, portReady_always]
  simp only [eeMoveQuad_mapped h]
  rfl

theorem eeActiveTick_faults (hqwc : (s.eeChannel ch).qwc ≠ 0)
    (h : eeDmaKey (!eeFromMemory ch (s.eeChannel ch).chcr) (s.eeChannel ch).madr = none) :
    eeActiveTick ch s =
      .fault (.unmappedAccess (s.eeChannel ch).madr 16 (!eeFromMemory ch (s.eeChannel ch).chcr)) := by
  rw [eeActiveTick, if_neg hqwc, portReady_always]
  simp only [eeMoveQuad_unmapped h]
  rfl

end

/-! ## Quadword after quadword (R491) -/

/-- The state after `k` quadwords of a transfer, before the test on QWC completes it. -/
def quadsMoved (ch : Fin 10) (keys : Nat → Nat) (s : State) : Nat → State
  | 0 => s
  | k + 1 => eeAdvance ch (quadMoved ch (keys k) (quadsMoved ch keys s k))

section
variable (ch : Fin 10) (keys : Nat → Nat) (s : State)

theorem eeAdvance_channel (s : State) : (eeAdvance ch s).eeChannel ch =
    { s.eeChannel ch with madr := (s.eeChannel ch).madr + 16, qwc := (s.eeChannel ch).qwc - 1 } :=
  (eeChannel_setEeChannel ..).trans (if_pos rfl)

theorem quadsMoved_zero : quadsMoved ch keys s 0 = s := rfl

theorem quadsMoved_channel (k : Nat) : (quadsMoved ch keys s k).eeChannel ch =
    { s.eeChannel ch with
      madr := (s.eeChannel ch).madr + BitVec.ofNat 32 (16 * k)
      qwc := (s.eeChannel ch).qwc - BitVec.ofNat 16 k
      sadr := if 8 ≤ ch.val then movedSadr (s.eeChannel ch).sadr k else (s.eeChannel ch).sadr } := by
  induction k with
  | zero => simp [quadsMoved, movedSadr]
  | succ k ih =>
    have madr : (s.eeChannel ch).madr + BitVec.ofNat 32 (16 * k) + 16 =
        (s.eeChannel ch).madr + BitVec.ofNat 32 (16 * (k + 1)) := by
      rw [BitVec.add_assoc, Nat.mul_succ, BitVec.ofNat_add]
      rfl
    have qwc : (s.eeChannel ch).qwc - BitVec.ofNat 16 k - 1 = (s.eeChannel ch).qwc - BitVec.ofNat 16 (k + 1) := by
      rw [BitVec.ofNat_add, BitVec.sub_sub]
      rfl
    rw [quadsMoved, eeAdvance_channel, quadMoved_channel, ih]
    simp only [madr, qwc, movedSadr]
    split <;> rfl

theorem quadsMoved_otherChannel {ch' : Fin 10} (h : ch' ≠ ch) (k : Nat) :
    (quadsMoved ch keys s k).eeChannel ch' = s.eeChannel ch' := by
  induction k with
  | zero => rfl
  | succ k ih => rw [quadsMoved, eeAdvance, eeChannel_setEeChannel, if_neg h, quadMoved_otherChannel h, ih]

theorem quadsMoved_dStat (k : Nat) : (quadsMoved ch keys s k).eeDmac.dStat = s.eeDmac.dStat := by
  induction k with
  | zero => rfl
  | succ k ih => rw [quadsMoved, eeAdvance, setEeChannel_dStat, quadMoved_dStat, ih]

theorem quadsMoved_chcr (k : Nat) : ((quadsMoved ch keys s k).eeChannel ch).chcr = (s.eeChannel ch).chcr := by
  rw [quadsMoved_channel]

theorem quadsMoved_madr (k : Nat) : ((quadsMoved ch keys s k).eeChannel ch).madr =
    (s.eeChannel ch).madr + BitVec.ofNat 32 (16 * k) := by
  rw [quadsMoved_channel]

theorem quadsMoved_qwc {k : Nat} (hk : k ≤ (s.eeChannel ch).qwc.toNat) :
    ((quadsMoved ch keys s k).eeChannel ch).qwc.toNat = (s.eeChannel ch).qwc.toNat - k := by
  rw [quadsMoved_channel]
  show ((s.eeChannel ch).qwc - BitVec.ofNat 16 k).toNat = _
  have := (s.eeChannel ch).qwc.isLt
  rw [BitVec.toNat_sub, BitVec.toNat_ofNat]
  omega

end

/-! ## The run of a transfer (R491, R497, R498) -/

/-- A channel that runs alone. -/
structure EeAlone (s : State) (ch : Fin 10) : Prop where
  running : (s.eeChannel ch).chcr.getLsbD 8 = true
  active : (s.eeChannel ch).phase = .active
  others : ∀ ch', ch' ≠ ch → (s.eeChannel ch').chcr.getLsbD 8 = false

/-- The memory side of the `k`-th quadword of a transfer. -/
def eeQuadKey (s : State) (ch : Fin 10) (k : Nat) : Option Nat :=
  eeDmaKey (!eeFromMemory ch (s.eeChannel ch).chcr) ((s.eeChannel ch).madr + BitVec.ofNat 32 (16 * k))

section
variable {s : State} {ch : Fin 10} {keys : Nat → Nat} {k : Nat}

theorem quadsMoved_alone (h : EeAlone s ch) : EeAlone (quadsMoved ch keys s k) ch where
  running := by rw [quadsMoved_channel]; exact h.running
  active := by rw [quadsMoved_channel]; exact h.active
  others ch' hne := by rw [quadsMoved_otherChannel _ _ _ hne]; exact h.others ch' hne

theorem quadsMoved_eeQuadKey : eeDmaKey (!eeFromMemory ch ((quadsMoved ch keys s k).eeChannel ch).chcr)
    ((quadsMoved ch keys s k).eeChannel ch).madr = eeQuadKey s ch k := by
  rw [quadsMoved_chcr, quadsMoved_madr]
  rfl

theorem quadsMoved_qwc_ne_zero (hk : k < (s.eeChannel ch).qwc.toNat) :
    ((quadsMoved ch keys s k).eeChannel ch).qwc ≠ 0 := by
  have left := quadsMoved_qwc ch keys s (Nat.le_of_lt hk)
  intro h
  have zero : (0 : BitVec 16).toNat = 0 := rfl
  rw [h, zero] at left
  omega

theorem eeCheckDone_running (h : (s.eeChannel ch).qwc ≠ 0) : eeCheckDone ch s = s := if_neg h

theorem eeCheckDone_done (hqwc : (s.eeChannel ch).qwc = 0) (hend : (s.eeChannel ch).chainEnd = true) :
    eeCheckDone ch s = eeComplete ch s := by
  simp only [eeCheckDone, hqwc, hend, if_true]

theorem eeCheckDone_otherChannel {ch' : Fin 10} (hne : ch' ≠ ch) :
    (eeCheckDone ch s).eeChannel ch' = s.eeChannel ch' := by
  unfold eeCheckDone
  simp only
  split
  · split
    · exact (eeChannel_setEeChannel ..).trans (if_neg hne)
    · exact (eeChannel_setEeChannel ..).trans (if_neg hne)
  · rfl

/-- One tick moves one quadword. -/
theorem eeDmacTick_quadsMoved (h : EeAlone s ch) (hk : k < (s.eeChannel ch).qwc.toNat)
    (hkey : eeQuadKey s ch k = some (keys k)) :
    eeDmacTick (quadsMoved ch keys s k) = .next (eeCheckDone ch (quadsMoved ch keys s (k + 1))) := by
  have moved := quadsMoved_alone (keys := keys) (k := k) h
  refine eeDmacTick_alone moved.others ?_ fun t ht ch' hne => ?_
  · rw [eeChannelTick_active moved.running moved.active,
      eeActiveTick_moves (quadsMoved_qwc_ne_zero hk) (quadsMoved_eeQuadKey.trans hkey)]
    rfl
  · obtain rfl := next_inj ht
    rw [eeCheckDone_otherChannel hne, quadsMoved_otherChannel _ _ _ hne, quadsMoved_otherChannel _ _ _ hne]

/-- While quadwords are left, a run of `k` ticks has moved `k` of them. -/
theorem eeDmacRun_quadsMoved (h : EeAlone s ch) (hk : k < (s.eeChannel ch).qwc.toNat)
    (hkeys : ∀ j, j < k → eeQuadKey s ch j = some (keys j)) :
    runTicks eeDmacTick k s = .next (quadsMoved ch keys s k) := by
  induction k with
  | zero => rfl
  | succ k ih =>
    rw [runTicks_succ (ih (by omega) fun j hj => hkeys j (by omega)),
      eeDmacTick_quadsMoved h (by omega) (hkeys k (by omega)), eeCheckDone_running (quadsMoved_qwc_ne_zero hk)]

/-- A transfer whose quadword `k` cannot be moved stops there. -/
theorem eeDmacRun_faults (h : EeAlone s ch) (hk : k < (s.eeChannel ch).qwc.toNat)
    (hkeys : ∀ j, j < k → eeQuadKey s ch j = some (keys j)) (hnone : eeQuadKey s ch k = none) :
    runTicks eeDmacTick (k + 1) s = .fault (.unmappedAccess ((s.eeChannel ch).madr + BitVec.ofNat 32 (16 * k)) 16
      (!eeFromMemory ch (s.eeChannel ch).chcr)) := by
  have moved := quadsMoved_alone (keys := keys) (k := k) h
  rw [runTicks_succ (eeDmacRun_quadsMoved h hk hkeys)]
  refine eeDmacTick_alone moved.others ?_ fun t ht => nomatch ht
  rw [eeChannelTick_active moved.running moved.active,
    eeActiveTick_faults (quadsMoved_qwc_ne_zero hk) (quadsMoved_eeQuadKey.trans hnone), quadsMoved_chcr,
    quadsMoved_madr]

section
variable (s ch)

/-- What completion writes of the channel and of D_STAT (R497). -/
theorem eeComplete_channel : (eeComplete ch s).eeChannel ch =
    { s.eeChannel ch with chcr := setBit (s.eeChannel ch).chcr 8 false, phase := .idle } :=
  (eeChannel_setEeChannel ..).trans (if_pos rfl)

theorem eeComplete_dStat : (eeComplete ch s).eeDmac.dStat = setBit s.eeDmac.dStat ch.val true := rfl

theorem eeComplete_otherChannel {ch' : Fin 10} (hne : ch' ≠ ch) : (eeComplete ch s).eeChannel ch' = s.eeChannel ch' :=
  (eeChannel_setEeChannel ..).trans (if_neg hne)

end

/-- A run completes the transfer in its last quadword's tick, or in its first tick where there is none. -/
theorem eeDmacRun_completes (h : EeAlone s ch) (hend : (s.eeChannel ch).chainEnd = true)
    (hkeys : ∀ j, j < (s.eeChannel ch).qwc.toNat → eeQuadKey s ch j = some (keys j)) :
    runTicks eeDmacTick (max (s.eeChannel ch).qwc.toNat 1) s =
      .next (eeComplete ch (quadsMoved ch keys s (s.eeChannel ch).qwc.toNat)) := by
  cases hn : (s.eeChannel ch).qwc.toNat with
  | zero =>
    have hqwc : (s.eeChannel ch).qwc = 0 := BitVec.eq_of_toNat_eq hn
    rw [quadsMoved_zero, show max 0 1 = 0 + 1 from rfl, runTicks_succ (t := s) rfl]
    refine eeDmacTick_alone h.others ?_ fun t ht ch' hne => ?_
    · rw [eeChannelTick_active h.running h.active, eeActiveTick, if_pos hqwc, eeCheckDone_done hqwc hend]
    · obtain rfl := next_inj ht
      exact eeComplete_otherChannel _ ch hne
  | succ n =>
    have done : ((quadsMoved ch keys s (n + 1)).eeChannel ch).qwc = 0 := by
      apply BitVec.eq_of_toNat_eq
      rw [quadsMoved_qwc _ _ _ (by omega), hn, Nat.sub_self]
      rfl
    rw [Nat.max_eq_left (by omega), runTicks_succ (eeDmacRun_quadsMoved h (by omega) fun j hj => hkeys j (by omega)),
      eeDmacTick_quadsMoved h (by omega) (hkeys n (by omega)),
      eeCheckDone_done done (by rw [quadsMoved_channel]; exact hend)]

/-- A completed transfer leaves every channel stopped. -/
theorem eeDmacTick_completed (h : EeAlone s ch) : eeDmacTick (eeComplete ch s) = .next (eeComplete ch s) := by
  refine eeDmacTick_stopped fun ch' => ?_
  by_cases hne : ch' = ch
  · subst hne
    rw [eeComplete_channel, getLsbD_setBit _ _ _ 8 (by omega), if_pos rfl]
  · rw [eeComplete_otherChannel s ch hne]
    exact h.others ch' hne

end

/-! ## The data of a transfer (R492) -/

section
variable (keys : Nat → Nat) (s : State) {ch : Fin 10}

/-- To a port: the quadwords are appended in order. -/
theorem quadsMoved_toPort (hch : ch.val < 8) (hdir : eeFromMemory ch (s.eeChannel ch).chcr = true) (k : Nat) :
    (quadsMoved ch keys s k).mem = s.mem ∧ (quadsMoved ch keys s k).draws = s.draws ∧
      (quadsMoved ch keys s k).dmaOut =
        s.dmaOut ++ (List.range k).map (fun j => .quad ch.val (s.mem.readLE (keys j) 16)) := by
  induction k with
  | zero => exact ⟨rfl, rfl, (List.append_nil _).symm⟩
  | succ k ih =>
    obtain ⟨hmem, hdraws, hout⟩ := ih
    rw [quadsMoved, quadMoved_toPort hch (by rw [quadsMoved_chcr]; exact hdir)]
    refine ⟨hmem, hdraws, ?_⟩
    rw [List.range_succ, List.map_append, ← List.append_assoc, ← hout, ← hmem]
    rfl

/-- From a port: the draws are written in order. -/
theorem quadsMoved_fromPort (hch : ch.val < 8) (hdir : eeFromMemory ch (s.eeChannel ch).chcr = false) (k : Nat) :
    (quadsMoved ch keys s k).dmaOut = s.dmaOut ∧ (quadsMoved ch keys s k).draws = s.draws + k ∧
      (quadsMoved ch keys s k).mem = writeQuads s.mem keys (fun j => Config.draw (s.draws + j)) k := by
  induction k with
  | zero => exact ⟨rfl, rfl, rfl⟩
  | succ k ih =>
    obtain ⟨hout, hdraws, hmem⟩ := ih
    rw [quadsMoved, quadMoved_fromPort hch (by rw [quadsMoved_chcr]; exact hdir), writeQuads, ← hmem, ← hdraws]
    exact ⟨hout, congrArg (· + 1) hdraws, rfl⟩

/-- Where channels 8 and 9 write the `k`-th quadword. -/
def sprDst (ch : Fin 10) (k : Nat) : Nat := if ch.val = 8 then keys k else sprQuad (s.eeChannel ch).sadr k

/-- Where channels 8 and 9 read it. -/
def sprSrc (ch : Fin 10) (k : Nat) : Nat := if ch.val = 8 then sprQuad (s.eeChannel ch).sadr k else keys k

/-- Channels 8 and 9 copy each quadword within memory as the quadwords before it left it. -/
theorem quadsMoved_scratchpad_succ (hch : 8 ≤ ch.val) (k : Nat) : (quadsMoved ch keys s (k + 1)).mem =
    (quadsMoved ch keys s k).mem.writeLE (sprDst keys s ch k) 16
      ((quadsMoved ch keys s k).mem.readLE (sprSrc keys s ch k) 16) := by
  have key : sprKey ((quadsMoved ch keys s k).eeChannel ch).sadr = sprQuad (s.eeChannel ch).sadr k := by
    rw [quadsMoved_channel]
    show sprKey (if 8 ≤ ch.val then _ else _) = _
    rw [if_pos hch, sprKey_movedSadr]
  rw [sprDst, sprSrc, ← key]
  exact quadMoved_scratchpad_mem hch

theorem quadsMoved_scratchpad_mem (hch : 8 ≤ ch.val) (k : Nat) : (quadsMoved ch keys s k).mem =
    writeQuads s.mem (sprDst keys s ch)
      (fun j => (quadsMoved ch keys s j).mem.readLE (sprSrc keys s ch j) 16) k := by
  induction k with
  | zero => rfl
  | succ k ih => rw [quadsMoved_scratchpad_succ keys s hch, writeQuads, ← ih]

theorem quadsMoved_scratchpad_history (hch : 8 ≤ ch.val) (k : Nat) :
    (quadsMoved ch keys s k).dmaOut = s.dmaOut ∧ (quadsMoved ch keys s k).draws = s.draws := by
  induction k with
  | zero => exact ⟨rfl, rfl⟩
  | succ k ih =>
    obtain ⟨hout, hdraws⟩ := quadMoved_scratchpad_history (s := quadsMoved ch keys s k) (key := keys k) hch
    exact ⟨hout.trans ih.1, hdraws.trans ih.2⟩

variable {keys s}

/-- A byte that no quadword of the transfer hits is as before. -/
theorem read_scratchpad_other (hch : 8 ≤ ch.val) {n b : Nat}
    (h : ∀ k, k < n → b < sprDst keys s ch k ∨ sprDst keys s ch k + 16 ≤ b) :
    (quadsMoved ch keys s n).mem.read b = s.mem.read b := by
  rw [quadsMoved_scratchpad_mem keys s hch, read_writeQuads_other _ _ _ h]

/-- A byte that no later quadword hits is the source's, where no quadword hits the source. -/
theorem read_scratchpad_last (hch : 8 ≤ ch.val) {n k i : Nat} (hk : k < n) (hi : i < 16)
    (hlast : ∀ k', k < k' → k' < n → sprDst keys s ch k + i < sprDst keys s ch k' ∨
      sprDst keys s ch k' + 16 ≤ sprDst keys s ch k + i)
    (hsrc : ∀ k', k' < n → sprSrc keys s ch k + i < sprDst keys s ch k' ∨
      sprDst keys s ch k' + 16 ≤ sprSrc keys s ch k + i) :
    (quadsMoved ch keys s n).mem.read (sprDst keys s ch k + i) = s.mem.read (sprSrc keys s ch k + i) := by
  rw [quadsMoved_scratchpad_mem keys s hch, read_writeQuads_last _ _ _ hk hi hlast, extract_readLE _ _ _ _ hi le_rfl,
    read_scratchpad_other hch fun k' hk' => hsrc k' (by omega)]

end

theorem eeDmaKey_scratchpad {write : Bool} {addr : Word} (h : addr.getLsbD 31 = true) :
    eeDmaKey write addr = some (0x70000000 + (addr &&& 0x00003FF0#32).toNat) := if_pos h

theorem eeDmaKey_page {write : Bool} {addr : Word} {r : Region} (h : addr.getLsbD 31 = false)
    (hp : pageEntry .ee addr = some r) :
    eeDmaKey write addr = if write = true ∧ r.writable = false then none else some (regionKey r addr) := by
  simp only [eeDmaKey, h, hp, Bool.false_eq_true, if_false, Bool.and_eq_true, Bool.not_eq_true']

/-- Settles O55: `k` ticks move `k` quadwords, the last one's tick completes, and the data are those of `quadsMoved`. -/
theorem eeDmaTransferCompletesInTickN : Obligations.EeDmaTransferCompletesInTickN := by
  refine ⟨fun write addr => ⟨eeDmaKey_scratchpad, eeDmaKey_unmapped, fun h r => eeDmaKey_page h⟩, ?faults, ?completes⟩
  case faults =>
    intro s ch n m hm c toMemory hstr hphase hqwc halone hmapped hnone
    have alone : EeAlone s ch := ⟨hstr, hphase, halone⟩
    have hm : m < (s.eeChannel ch).qwc.toNat := hqwc ▸ hm
    have hkeys (k : Nat) (hk : k < m) : eeQuadKey s ch k = some ((eeQuadKey s ch k).getD 0) := by
      obtain ⟨key, h⟩ := Option.isSome_iff_exists.1 (hmapped k hk)
      rw [show eeQuadKey s ch k = some key from h]
      rfl
    refine ⟨⟨_, (eeDmacRun_eq m s).trans (eeDmacRun_quadsMoved alone hm hkeys), ?_⟩, fun k hk => ?_⟩
    · rw [quadsMoved_qwc _ _ _ (Nat.le_of_lt hm), hqwc]
    · rw [eeDmacRun_eq]
      exact runTicks_fault (eeDmacRun_faults alone hm hkeys hnone) hk
  case completes =>
    intro s ch n keys c spr hstr hphase hend hqwc halone hkeys
    have alone : EeAlone s ch := ⟨hstr, hphase, halone⟩
    subst hqwc
    have running {k : Nat} (hk : k < c.qwc.toNat) : eeDmacRun k s = .next (quadsMoved ch keys s k) :=
      (eeDmacRun_eq k s).trans (eeDmacRun_quadsMoved alone hk fun j hj => hkeys j (by omega))
    have completed := eeDmacRun_completes alone hend hkeys
    have channel := eeComplete_channel (quadsMoved ch keys s c.qwc.toNat) ch
    refine ⟨fun k hk => ⟨_, running hk, quadsMoved_chcr ch keys s k, quadsMoved_qwc _ _ _ (Nat.le_of_lt hk),
      quadsMoved_dStat ch keys s k, fun hch => ?copy⟩, eeComplete ch (quadsMoved ch keys s c.qwc.toNat),
      fun k hk => ?run,
      fun j hj => ?chcr, ?phase, ?qwc, ?madr, fun j hj => ?stat, fun ch' hne => ?other, fun hch hdir => ?toPort,
      fun hch hdir => ?fromPort, fun hch => ?history, fun h8 => ?eight, fun h9 => ?nine⟩
    case copy =>
      refine ⟨eeCheckDone ch (quadsMoved ch keys s (k + 1)), ?_, fun b => ?_⟩
      · rw [eeDmacRun_eq, runTicks_succ ((eeDmacRun_eq k s).symm.trans (running hk)),
          eeDmacTick_quadsMoved alone hk (hkeys k hk)]
      · rw [eeCheckDone_mem, quadsMoved_scratchpad_succ keys s hch, read_writeLE_readLE]
        rfl
    case run =>
      rw [eeDmacRun_eq]
      exact runTicks_idle completed (eeDmacTick_completed (quadsMoved_alone alone)) hk
    case chcr => rw [channel, quadsMoved_chcr, getLsbD_setBit _ _ _ _ hj]
    case phase => rw [channel]
    case qwc =>
      apply BitVec.eq_of_toNat_eq
      rw [channel]
      exact (quadsMoved_qwc _ _ _ le_rfl).trans (Nat.sub_self _)
    case madr => rw [channel]; exact quadsMoved_madr ch keys s _
    case stat => rw [eeComplete_dStat, quadsMoved_dStat, getLsbD_setBit _ _ _ _ hj]
    case other => rw [eeComplete_otherChannel _ ch hne, quadsMoved_otherChannel _ _ _ hne]
    case toPort => exact quadsMoved_toPort keys s hch hdir _
    case fromPort =>
      obtain ⟨hout, hdraws, hmem⟩ := quadsMoved_fromPort keys s hch hdir c.qwc.toNat
      have hmem : (eeComplete ch (quadsMoved ch keys s c.qwc.toNat)).mem = _ := hmem
      refine ⟨hout, hdraws, fun k hk i hi hlast => ?_, fun b hb => ?_⟩
      · rw [hmem, read_writeQuads_last _ _ _ hk hi hlast]
      · rw [hmem, read_writeQuads_other _ _ _ hb]
    case history =>
      obtain ⟨hout, hdraws⟩ := quadsMoved_scratchpad_history keys s hch c.qwc.toNat
      refine ⟨hout, hdraws, ?_⟩
      rw [channel, quadsMoved_channel]
      exact (if_pos hch).trans (movedSadr_eq _ _)
    case eight =>
      have dst (k : Nat) : sprDst keys s ch k = keys k := if_pos h8
      have src (k : Nat) : sprSrc keys s ch k = spr k := if_pos h8
      refine ⟨fun b hb => read_scratchpad_other (by omega) (by simpa only [dst] using hb),
        fun hlow k hk i hi hlast => ?_⟩
      have copied := read_scratchpad_last (n := c.qwc.toNat) (keys := keys) (s := s) (ch := ch) (by omega) hk hi
        (by simpa only [dst] using hlast) fun k' hk' => by
          have := hlow k' hk'
          have : 0x70000000 ≤ spr k := sprQuad_ge _ _
          rw [dst, src]
          omega
      rwa [dst, src] at copied
    case nine =>
      have dst (k : Nat) : sprDst keys s ch k = spr k := if_neg (by omega)
      have src (k : Nat) : sprSrc keys s ch k = keys k := if_neg (by omega)
      refine ⟨fun b hb => read_scratchpad_other (by omega) (by simpa only [dst] using hb),
        fun hlow hfits k hk => readLE_congr fun i hi => ?_⟩
      have quads (k : Nat) (hk : k < c.qwc.toNat) : spr k = spr 0 + 16 * k := sprQuad_eq hfits hk
      have copied := read_scratchpad_last (n := c.qwc.toNat) (keys := keys) (s := s) (ch := ch) (by omega) hk hi
        (fun k' h1 h2 => by
          rw [dst, dst, quads k hk, quads k' h2]
          omega)
        fun k' hk' => by
          have := hlow k hk
          have : 0x70000000 ≤ spr k' := sprQuad_ge _ _
          rw [dst, src]
          omega
      rwa [dst, src] at copied

end Sys2Proof.Machine
end

section
/-! SUPPORT. An IOP transfer: one word, the words one after the other, completion, the data, and the statement
(60_exceptions.md R523, R524, R526; 20_memory.md R134). -/

namespace Sys2Proof.Machine

/-! ## One IOP channel alone (R471) -/

theorem iopDmacTick_eq_foldl (s : State) :
    iopDmacTick s = (List.finRange 13).foldl (fun o ch => andThen o (iopChannelTick ch)) (.next s) :=
  iopChannelsTick_eq_foldl _ s

theorem iopDmacTick_stopped {s : State} (h : ∀ ch, (s.iopChannel ch).chcr.getLsbD 24 = false) :
    iopDmacTick s = .next s := by
  rw [iopDmacTick_eq_foldl]
  exact foldl_tick_idle fun ch _ => iopChannelTick_stopped (h ch)

theorem iopDmacTick_alone {s : State} {ch : Fin 13} {o : Out}
    (halone : ∀ ch', ch' ≠ ch → (s.iopChannel ch').chcr.getLsbD 24 = false) (htick : iopChannelTick ch s = o)
    (hkeep : ∀ t, o = .next t → ∀ ch', ch' ≠ ch → t.iopChannel ch' = s.iopChannel ch') : iopDmacTick s = o := by
  rw [iopDmacTick_eq_foldl]
  refine foldl_tick_alone (List.mem_finRange ch) (List.nodup_finRange 13)
    (fun c hc => iopChannelTick_stopped (halone c hc)) htick fun t ht c hc => iopChannelTick_stopped ?_
  rw [hkeep t ht c hc]
  exact halone c hc

/-! ## The bytes of a word -/

/-- A word written byte by byte. -/
def writeWord (m : Memory) (key : Nat → Nat) (w : Word) : Memory :=
  (((m.write (key 0) (w.extractLsb' 0 8)).write (key 1) (w.extractLsb' 8 8)).write (key 2)
    (w.extractLsb' 16 8)).write (key 3) (w.extractLsb' 24 8)

/-- The word that four bytes make. -/
def readWord (m : Memory) (key : Nat → Nat) : Word :=
  m.read (key 3) ++ m.read (key 2) ++ m.read (key 1) ++ m.read (key 0)

theorem read_writeWord_other (m : Memory) {key : Nat → Nat} (w : Word) {b : Nat} (h : ∀ j, j < 4 → key j ≠ b) :
    (writeWord m key w).read b = m.read b := by
  have other (j : Nat) (hj : j < 4) : ¬ b = key j := Ne.symm (h j hj)
  simp only [writeWord, read_write, if_neg (other 0 (by omega)), if_neg (other 1 (by omega)),
    if_neg (other 2 (by omega)), if_neg (other 3 (by omega))]

theorem read_writeWord_same (m : Memory) {key : Nat → Nat} (w : Word) {j : Nat} (hj : j < 4)
    (hkey : ∀ i, i < 4 → key i = key 0 + i) : (writeWord m key w).read (key j) = w.extractLsb' (8 * j) 8 := by
  simp only [writeWord, read_write, hkey j hj, hkey 1 (by omega), hkey 2 (by omega), hkey 3 (by omega)]
  interval_cases j <;> simp

/-- Memory after `k` words, each written where `dst` says. -/
def writeWords (m : Memory) (dst : Nat → Nat → Nat) (val : Nat → Word) : Nat → Memory
  | 0 => m
  | k + 1 => writeWord (writeWords m dst val k) (dst k) (val k)

section
variable (m : Memory) (dst : Nat → Nat → Nat) (val : Nat → Word)

theorem read_writeWords_other {n b : Nat} (h : ∀ k, k < n → ∀ j, j < 4 → dst k j ≠ b) :
    (writeWords m dst val n).read b = m.read b := by
  induction n with
  | zero => rfl
  | succ n ih =>
    rw [writeWords, read_writeWord_other _ _ (h n (by omega)), ih fun k hk => h k (by omega)]

/-- A byte that no later word hits holds what its own word gave. -/
theorem read_writeWords_last {n k j : Nat} (hk : k < n) (hj : j < 4)
    (hdst : ∀ i, i < 4 → dst k i = dst k 0 + i)
    (h : ∀ k', k < k' → k' < n → ∀ i, i < 4 → dst k' i ≠ dst k j) :
    (writeWords m dst val n).read (dst k j) = (val k).extractLsb' (8 * j) 8 := by
  induction n with
  | zero => omega
  | succ n ih =>
    rw [writeWords]
    by_cases hn : k = n
    · subst hn
      exact read_writeWord_same _ _ hj hdst
    · rw [read_writeWord_other _ _ (h n (by omega) (by omega)), ih (by omega) fun k' h1 h2 => h k' h1 (by omega)]

end

/-! ## The memory path (20_memory.md R134) -/

theorem iopDmaByteKey_unmapped {write : Bool} {addr : Word} (h : pageEntry .iop addr = none) :
    iopDmaByteKey write addr = none := by
  simp only [iopDmaByteKey, h]

theorem iopDmaByteKey_page {write : Bool} {addr : Word} {r : Region} (h : pageEntry .iop addr = some r) :
    iopDmaByteKey write addr = if write = true ∧ r.writable = false then none else some (regionKey r addr) := by
  simp only [iopDmaByteKey, h, Bool.and_eq_true, Bool.not_eq_true']

theorem iopDmaByteKey_some {write : Bool} {addr : Word} {key : Nat} (h : iopDmaByteKey write addr = some key) :
    ∃ r, pageEntry .iop addr = some r ∧ key = regionKey r addr := by
  unfold iopDmaByteKey at h
  split at h
  case h_1 r hr =>
    split at h
    · cases h
    · exact ⟨r, hr, (Option.some.inj h).symm⟩
  case h_2 => cases h

/-- The page table looks at the page alone. -/
theorem pageEntry_congr {c : Cpu} {a b : Word} (h : pageStart a = pageStart b) : pageEntry c a = pageEntry c b := by
  simp only [pageEntry, regionCovers, h]

/-- The bytes of an aligned word follow one another in their buffer. -/
theorem iopDmaByteKey_aligned {write : Bool} {addr : Word} {key : Nat → Nat} (ha : addr.toNat % 4 = 0)
    (h : ∀ j, j < 4 → iopDmaByteKey write (addr + BitVec.ofNat 32 j) = some (key j)) {j : Nat} (hj : j < 4) :
    key j = key 0 + j := by
  have nat (j : Nat) (hj : j < 4) : (addr + BitVec.ofNat 32 j).toNat = addr.toNat + j := by
    rw [BitVec.toNat_add, BitVec.toNat_ofNat]
    omega
  obtain ⟨r, hr, h0⟩ := iopDmaByteKey_some (h 0 (by omega))
  obtain ⟨r', hr', hj'⟩ := iopDmaByteKey_some (h j hj)
  have same : pageStart (addr + BitVec.ofNat 32 j) = pageStart (addr + BitVec.ofNat 32 0) := by
    simp only [pageStart, nat j hj, nat 0 (by omega)]
    omega
  rw [pageEntry_congr same, hr] at hr'
  obtain rfl := Option.some.inj hr'
  obtain ⟨hmem, -⟩ := pageEntry_mem hr
  have masks : ∀ r ∈ Config.regions .iop, ∃ k, k = 10 ∧ r.mask.toNat = 2 ^ k - 1 ∨ k = 21 ∧ r.mask.toNat = 2 ^ k - 1 ∨
      k = 22 ∧ r.mask.toNat = 2 ^ k - 1 := by
    simp only [Config.regions, Config.iopRegions, List.forall_mem_cons]
    exact ⟨⟨21, .inr (.inl ⟨rfl, rfl⟩)⟩, ⟨10, .inl ⟨rfl, rfl⟩⟩, ⟨22, .inr (.inr ⟨rfl, rfl⟩)⟩, by simp⟩
  rw [h0, hj']
  obtain ⟨k, ⟨rfl, hk⟩ | ⟨rfl, hk⟩ | ⟨rfl, hk⟩⟩ := masks r hmem <;>
  · rw [regionKey_eq_mod hk, regionKey_eq_mod hk, nat j hj, nat 0 (by omega)]
    omega

/-! ## One word (R523) -/

theorem dmaRead4_mapped {s : State} {addr : Word} {key : Nat → Nat}
    (h : ∀ j, j < 4 → iopDmaByteKey false (addr + BitVec.ofNat 32 j) = some (key j)) :
    dmaRead4 s addr = .value ((readWord s.mem key).setWidth 128) s := by
  have h0 : iopDmaByteKey false addr = some (key 0) := by simpa using h 0 (by omega)
  have h1 : iopDmaByteKey false (addr + 1) = some (key 1) := h 1 (by omega)
  have h2 : iopDmaByteKey false (addr + 2) = some (key 2) := h 2 (by omega)
  have h3 : iopDmaByteKey false (addr + 3) = some (key 3) := h 3 (by omega)
  simp only [dmaRead4, h0, h1, h2, h3]
  rfl

theorem dmaWrite4_mapped {s : State} {addr w : Word} {key : Nat → Nat}
    (h : ∀ j, j < 4 → iopDmaByteKey true (addr + BitVec.ofNat 32 j) = some (key j)) :
    dmaWrite4 s addr w = .next { s with mem := writeWord s.mem key w } := by
  have h0 : iopDmaByteKey true addr = some (key 0) := by simpa using h 0 (by omega)
  have h1 : iopDmaByteKey true (addr + 1) = some (key 1) := h 1 (by omega)
  have h2 : iopDmaByteKey true (addr + 2) = some (key 2) := h 2 (by omega)
  have h3 : iopDmaByteKey true (addr + 3) = some (key 3) := h 3 (by omega)
  simp only [dmaWrite4, h0, h1, h2, h3]
  rfl

/-- Not all four bytes of a word have a key. -/
theorem iopBytes_not_all {write : Bool} {addr : Word}
    (h : ∃ j, j < 4 ∧ iopDmaByteKey write (addr + BitVec.ofNat 32 j) = none) {k0 k1 k2 k3 : Nat}
    (h0 : iopDmaByteKey write addr = some k0) (h1 : iopDmaByteKey write (addr + 1) = some k1)
    (h2 : iopDmaByteKey write (addr + 2) = some k2) (h3 : iopDmaByteKey write (addr + 3) = some k3) : False := by
  obtain ⟨j, hj, hnone⟩ := h
  obtain rfl | rfl | rfl | rfl : j = 0 ∨ j = 1 ∨ j = 2 ∨ j = 3 := by omega
  · rw [BitVec.add_zero, h0] at hnone; cases hnone
  · exact nomatch h1.symm.trans hnone
  · exact nomatch h2.symm.trans hnone
  · exact nomatch h3.symm.trans hnone

theorem dmaRead4_unmapped {s : State} {addr : Word}
    (h : ∃ j, j < 4 ∧ iopDmaByteKey false (addr + BitVec.ofNat 32 j) = none) :
    dmaRead4 s addr = .fault (.unmappedAccess addr 4 false) := by
  unfold dmaRead4
  split
  next h0 h1 h2 h3 => exact (iopBytes_not_all h h0 h1 h2 h3).elim
  next => rfl

theorem dmaWrite4_unmapped {s : State} {addr w : Word}
    (h : ∃ j, j < 4 ∧ iopDmaByteKey true (addr + BitVec.ofNat 32 j) = none) :
    dmaWrite4 s addr w = .fault (.unmappedAccess addr 4 true) := by
  unfold dmaWrite4
  split
  next h0 h1 h2 h3 => exact (iopBytes_not_all h h0 h1 h2 h3).elim
  next => rfl

/-- The state after a word is moved whose bytes are at `key`. -/
def wordMoved (ch : Fin 13) (key : Nat → Nat) (s : State) : State :=
  if (s.iopChannel ch).chcr.getLsbD 0 then s.emitDma (.word ch.val (readWord s.mem key))
  else { s.afterDraw with mem := writeWord s.mem key (s.nextDraw.setWidth 32) }

section
variable {s : State} {ch : Fin 13} {key : Nat → Nat}

theorem iopMoveWord_mapped (h : ∀ j, j < 4 → iopDmaByteKey (!(s.iopChannel ch).chcr.getLsbD 0)
      ((s.iopChannel ch).madr + BitVec.ofNat 32 j) = some (key j)) :
    iopMoveWord ch s = .next (wordMoved ch key s) := by
  unfold iopMoveWord wordMoved
  simp only
  cases hdir : (s.iopChannel ch).chcr.getLsbD 0 <;> rw [hdir] at h
  · rw [if_neg Bool.false_ne_true, if_neg Bool.false_ne_true, dmaWrite4_mapped h]
    rfl
  · rw [if_pos rfl, if_pos rfl, dmaRead4_mapped h, useLoaded, BitVec.setWidth_setWidth_of_le _ (by omega),
      BitVec.setWidth_eq]

theorem iopMoveWord_unmapped (h : ∃ j, j < 4 ∧ iopDmaByteKey (!(s.iopChannel ch).chcr.getLsbD 0)
      ((s.iopChannel ch).madr + BitVec.ofNat 32 j) = none) :
    iopMoveWord ch s = .fault (.unmappedAccess (s.iopChannel ch).madr 4 (!(s.iopChannel ch).chcr.getLsbD 0)) := by
  unfold iopMoveWord
  simp only
  cases hdir : (s.iopChannel ch).chcr.getLsbD 0 <;> rw [hdir] at h
  · rw [if_neg Bool.false_ne_true, dmaWrite4_unmapped h]
    rfl
  · rw [if_pos rfl, dmaRead4_unmapped h]
    rfl

/-- Moving a word touches no register of the DMAC. -/
theorem wordMoved_registers : (wordMoved ch key s).iopDmac = s.iopDmac ∧ (wordMoved ch key s).iopIntc = s.iopIntc := by
  unfold wordMoved
  split <;> exact ⟨rfl, rfl⟩

theorem wordMoved_channel (ch' : Fin 13) : (wordMoved ch key s).iopChannel ch' = s.iopChannel ch' := by
  rw [State.iopChannel, wordMoved_registers.1]
  rfl

theorem iopChannelTick_active (hstart : (s.iopChannel ch).chcr.getLsbD 24 = true)
    (hphase : (s.iopChannel ch).phase = .active) : iopChannelTick ch s = iopActiveTick ch s := by
  simp only [iopChannelTick, iopStart, hstart, hphase, Bool.true_eq_false, if_false]

/-- An Active tick with a word left moves it. -/
theorem iopActiveTick_moves (hleft : (s.iopChannel ch).remaining ≠ 0)
    (h : ∀ j, j < 4 → iopDmaByteKey (!(s.iopChannel ch).chcr.getLsbD 0)
      ((s.iopChannel ch).madr + BitVec.ofNat 32 j) = some (key j)) :
    iopActiveTick ch s = .next (iopCheckDone ch (iopAdvance ch (wordMoved ch key s))) := by
  rw [iopActiveTick, if_neg hleft, portReady_always]
  simp only [iopMoveWord_mapped h]
  rfl

theorem iopActiveTick_faults (hleft : (s.iopChannel ch).remaining ≠ 0)
    (h : ∃ j, j < 4 ∧ iopDmaByteKey (!(s.iopChannel ch).chcr.getLsbD 0)
      ((s.iopChannel ch).madr + BitVec.ofNat 32 j) = none) :
    iopActiveTick ch s = .fault (.unmappedAccess (s.iopChannel ch).madr 4 (!(s.iopChannel ch).chcr.getLsbD 0)) := by
  rw [iopActiveTick, if_neg hleft, portReady_always]
  simp only [iopMoveWord_unmapped h]
  rfl

end

/-! ## Word after word (R523) -/

/-- MADR after `k` words. -/
def wordAddr (c : IopChannel) (k : Nat) : Word :=
  if c.chcr.getLsbD 1 then c.madr - BitVec.ofNat 32 (4 * k) else c.madr + BitVec.ofNat 32 (4 * k)

theorem wordAddr_zero (c : IopChannel) : wordAddr c 0 = c.madr := by
  unfold wordAddr
  split <;> simp

theorem wordAddr_succ (c : IopChannel) (k : Nat) :
    wordAddr c (k + 1) = if c.chcr.getLsbD 1 then wordAddr c k - 4 else wordAddr c k + 4 := by
  unfold wordAddr
  split
  · rw [BitVec.sub_sub, Nat.mul_succ, BitVec.ofNat_add]
    rfl
  · rw [BitVec.add_assoc, Nat.mul_succ, BitVec.ofNat_add]
    rfl

theorem wordAddr_aligned {c : IopChannel} (h : c.madr.toNat % 4 = 0) (k : Nat) : (wordAddr c k).toNat % 4 = 0 := by
  unfold wordAddr
  split
  · rw [BitVec.toNat_sub, BitVec.toNat_ofNat]
    omega
  · rw [BitVec.toNat_add, BitVec.toNat_ofNat]
    omega

/-- The state after `k` words of a transfer, before the test on `remaining` completes it. -/
def wordsMoved (ch : Fin 13) (keys : Nat → Nat → Nat) (s : State) : Nat → State
  | 0 => s
  | k + 1 => iopAdvance ch (wordMoved ch (keys k) (wordsMoved ch keys s k))

section
variable (ch : Fin 13) (keys : Nat → Nat → Nat) (s : State)

theorem wordsMoved_zero : wordsMoved ch keys s 0 = s := rfl

theorem wordsMoved_channel (k : Nat) : (wordsMoved ch keys s k).iopChannel ch =
    { s.iopChannel ch with
      madr := wordAddr (s.iopChannel ch) k
      remaining := (s.iopChannel ch).remaining - BitVec.ofNat 32 k } := by
  induction k with
  | zero => simp [wordsMoved, wordAddr_zero]
  | succ k ih =>
    have remaining : (s.iopChannel ch).remaining - BitVec.ofNat 32 k - 1 =
        (s.iopChannel ch).remaining - BitVec.ofNat 32 (k + 1) := by
      rw [BitVec.ofNat_add, BitVec.sub_sub]
      rfl
    rw [wordsMoved, iopAdvance, iopChannel_setIopChannel, if_pos rfl, wordMoved_channel, ih, wordAddr_succ]
    simp only [remaining]

theorem wordsMoved_otherChannel {ch' : Fin 13} (h : ch' ≠ ch) (k : Nat) :
    (wordsMoved ch keys s k).iopChannel ch' = s.iopChannel ch' := by
  induction k with
  | zero => rfl
  | succ k ih => rw [wordsMoved, iopAdvance, iopChannel_setIopChannel, if_neg h, wordMoved_channel, ih]

/-- The flags and I_STAT stay until the transfer completes. -/
theorem wordsMoved_flags (k : Nat) : (wordsMoved ch keys s k).iopDmac.dicr = s.iopDmac.dicr ∧
    (wordsMoved ch keys s k).iopDmac.dicr2 = s.iopDmac.dicr2 ∧ (wordsMoved ch keys s k).iopIntc = s.iopIntc := by
  induction k with
  | zero => exact ⟨rfl, rfl, rfl⟩
  | succ k ih =>
    obtain ⟨hdmac, hintc⟩ := wordMoved_registers (s := wordsMoved ch keys s k) (ch := ch) (key := keys k)
    rw [← hdmac, ← hintc] at ih
    exact ih

theorem wordsMoved_chcr (k : Nat) : ((wordsMoved ch keys s k).iopChannel ch).chcr = (s.iopChannel ch).chcr := by
  rw [wordsMoved_channel]

theorem wordsMoved_madr (k : Nat) : ((wordsMoved ch keys s k).iopChannel ch).madr = wordAddr (s.iopChannel ch) k := by
  rw [wordsMoved_channel]

theorem wordsMoved_remaining {k : Nat} (hk : k ≤ (s.iopChannel ch).remaining.toNat) :
    ((wordsMoved ch keys s k).iopChannel ch).remaining.toNat = (s.iopChannel ch).remaining.toNat - k := by
  rw [wordsMoved_channel]
  show ((s.iopChannel ch).remaining - BitVec.ofNat 32 k).toNat = _
  have := (s.iopChannel ch).remaining.isLt
  rw [BitVec.toNat_sub, BitVec.toNat_ofNat]
  omega

end

/-! ## Completion (R524, R526) -/

section
variable (s : State) (ch : Fin 13)

/-- Completion before the line is looked at. -/
def iopFlagged : State :=
  (s.setIopChannel ch { s.iopChannel ch with
    chcr := setBit (setBit (s.iopChannel ch).chcr 24 false) 28 false, phase := .idle }).setIopDmaFlag ch

theorem iopComplete_eq : iopComplete ch s = (iopFlagged s ch).iopDmaLineUpdate := rfl

theorem iopDmaLineUpdate_dmac : s.iopDmaLineUpdate.iopDmac = s.iopDmac :=
  (congrArg State.iopDmac (iopDmaLineUpdate_frame s) :)

theorem iopDmaLineUpdate_stat (j : Nat) : s.iopDmaLineUpdate.iopIntc.stat.getLsbD j =
    if j = 3 ∧ iopDmacLine s.iopDmac.dicr s.iopDmac.dicr2 = true then true else s.iopIntc.stat.getLsbD j := by
  rw [State.iopDmaLineUpdate, State.iopDmaLine_eq_line]
  cases iopDmacLine s.iopDmac.dicr s.iopDmac.dicr2
  · rw [if_neg Bool.false_ne_true, if_neg (by simp)]
  · rw [if_pos rfl]
    simp only [and_true]
    exact getLsbD_or_bit s.iopIntc.stat 3 j (by omega)

theorem setIopDmaFlag_channel (ch' : Fin 13) : (s.setIopDmaFlag ch).iopChannel ch' = s.iopChannel ch' := by
  unfold State.setIopDmaFlag
  split <;> rfl

theorem setIopDmaFlag_dicr {j : Nat} (hj : j < 32) : (s.setIopDmaFlag ch).iopDmac.dicr.getLsbD j =
    if ch.val ≤ 6 ∧ j = 24 + ch.val then true else s.iopDmac.dicr.getLsbD j := by
  unfold State.setIopDmaFlag
  by_cases h : ch.val ≤ 6
  · rw [if_pos h]
    simp only [h, true_and]
    exact getLsbD_setBit _ _ _ _ hj
  · rw [if_neg h, if_neg (by omega)]

theorem setIopDmaFlag_dicr2 {j : Nat} (hj : j < 32) : (s.setIopDmaFlag ch).iopDmac.dicr2.getLsbD j =
    if 7 ≤ ch.val ∧ j = 24 + ch.val - 7 then true else s.iopDmac.dicr2.getLsbD j := by
  unfold State.setIopDmaFlag
  by_cases h : ch.val ≤ 6
  · rw [if_pos h, if_neg (by omega)]
  · rw [if_neg h]
    simp only [show 7 ≤ ch.val by omega, true_and]
    exact getLsbD_setBit _ _ _ _ hj

theorem setIopDmaFlag_rest : (s.setIopDmaFlag ch).iopIntc = s.iopIntc ∧ (s.setIopDmaFlag ch).mem = s.mem ∧
    (s.setIopDmaFlag ch).dmaOut = s.dmaOut ∧ (s.setIopDmaFlag ch).draws = s.draws := by
  unfold State.setIopDmaFlag
  split <;> exact ⟨rfl, rfl, rfl, rfl⟩

theorem iopComplete_channel : (iopComplete ch s).iopChannel ch = { s.iopChannel ch with
    chcr := setBit (setBit (s.iopChannel ch).chcr 24 false) 28 false, phase := .idle } := by
  rw [iopComplete_eq, State.iopChannel, iopDmaLineUpdate_dmac]
  show (iopFlagged s ch).iopChannel ch = _
  rw [iopFlagged, setIopDmaFlag_channel, iopChannel_setIopChannel, if_pos rfl]

theorem iopComplete_otherChannel {ch' : Fin 13} (h : ch' ≠ ch) :
    (iopComplete ch s).iopChannel ch' = s.iopChannel ch' := by
  rw [iopComplete_eq, State.iopChannel, iopDmaLineUpdate_dmac]
  show (iopFlagged s ch).iopChannel ch' = _
  rw [iopFlagged, setIopDmaFlag_channel, iopChannel_setIopChannel, if_neg h]

theorem iopComplete_dicr {j : Nat} (hj : j < 32) : (iopComplete ch s).iopDmac.dicr.getLsbD j =
    if ch.val ≤ 6 ∧ j = 24 + ch.val then true else s.iopDmac.dicr.getLsbD j := by
  rw [iopComplete_eq, iopDmaLineUpdate_dmac, iopFlagged, setIopDmaFlag_dicr _ _ hj]
  rfl

theorem iopComplete_dicr2 {j : Nat} (hj : j < 32) : (iopComplete ch s).iopDmac.dicr2.getLsbD j =
    if 7 ≤ ch.val ∧ j = 24 + ch.val - 7 then true else s.iopDmac.dicr2.getLsbD j := by
  rw [iopComplete_eq, iopDmaLineUpdate_dmac, iopFlagged, setIopDmaFlag_dicr2 _ _ hj]
  rfl

theorem iopComplete_stat (j : Nat) : (iopComplete ch s).iopIntc.stat.getLsbD j =
    if j = 3 ∧ iopDmacLine (iopComplete ch s).iopDmac.dicr (iopComplete ch s).iopDmac.dicr2 = true then true
    else s.iopIntc.stat.getLsbD j := by
  rw [iopComplete_eq, iopDmaLineUpdate_stat, iopDmaLineUpdate_dmac, iopFlagged,
    (setIopDmaFlag_rest _ ch).1]
  rfl

/-- Completion touches neither memory nor the histories. -/
theorem iopComplete_data : (iopComplete ch s).mem = s.mem ∧ (iopComplete ch s).dmaOut = s.dmaOut ∧
    (iopComplete ch s).draws = s.draws := by
  have frame := iopDmaLineUpdate_frame (iopFlagged s ch)
  obtain ⟨-, hmem, hout, hdraws⟩ := setIopDmaFlag_rest (s.setIopChannel ch { s.iopChannel ch with
    chcr := setBit (setBit (s.iopChannel ch).chcr 24 false) 28 false, phase := .idle }) ch
  exact ⟨(congrArg State.mem frame :).trans hmem, (congrArg State.dmaOut frame :).trans hout,
    (congrArg State.draws frame :).trans hdraws⟩

end

/-! ## The run of a transfer (R523, R524) -/

/-- A channel that runs alone. -/
structure IopAlone (s : State) (ch : Fin 13) : Prop where
  running : (s.iopChannel ch).chcr.getLsbD 24 = true
  active : (s.iopChannel ch).phase = .active
  others : ∀ ch', ch' ≠ ch → (s.iopChannel ch').chcr.getLsbD 24 = false

/-- Byte `j` of the `k`-th word of a transfer in memory. -/
def iopWordKey (s : State) (ch : Fin 13) (k j : Nat) : Option Nat :=
  iopDmaByteKey (!(s.iopChannel ch).chcr.getLsbD 0) (wordAddr (s.iopChannel ch) k + BitVec.ofNat 32 j)

section
variable {s : State} {ch : Fin 13} {keys : Nat → Nat → Nat} {k : Nat}

theorem wordsMoved_alone (h : IopAlone s ch) : IopAlone (wordsMoved ch keys s k) ch where
  running := by rw [wordsMoved_channel]; exact h.running
  active := by rw [wordsMoved_channel]; exact h.active
  others ch' hne := by rw [wordsMoved_otherChannel _ _ _ hne]; exact h.others ch' hne

theorem wordsMoved_iopWordKey (j : Nat) : iopDmaByteKey (!((wordsMoved ch keys s k).iopChannel ch).chcr.getLsbD 0)
    (((wordsMoved ch keys s k).iopChannel ch).madr + BitVec.ofNat 32 j) = iopWordKey s ch k j := by
  rw [wordsMoved_chcr, wordsMoved_madr]
  rfl

theorem wordsMoved_remaining_ne_zero (hk : k < (s.iopChannel ch).remaining.toNat) :
    ((wordsMoved ch keys s k).iopChannel ch).remaining ≠ 0 := by
  have left := wordsMoved_remaining ch keys s (Nat.le_of_lt hk)
  intro h
  have zero : (0 : Word).toNat = 0 := rfl
  rw [h, zero] at left
  omega

theorem iopCheckDone_running (h : (s.iopChannel ch).remaining ≠ 0) : iopCheckDone ch s = s := if_neg h

theorem iopCheckDone_done (h : (s.iopChannel ch).remaining = 0) : iopCheckDone ch s = iopComplete ch s := if_pos h

theorem iopCheckDone_otherChannel {ch' : Fin 13} (hne : ch' ≠ ch) :
    (iopCheckDone ch s).iopChannel ch' = s.iopChannel ch' := by
  unfold iopCheckDone
  split
  · exact iopComplete_otherChannel s ch hne
  · rfl

/-- One tick moves one word. -/
theorem iopDmacTick_wordsMoved (h : IopAlone s ch) (hk : k < (s.iopChannel ch).remaining.toNat)
    (hkey : ∀ j, j < 4 → iopWordKey s ch k j = some (keys k j)) :
    iopDmacTick (wordsMoved ch keys s k) = .next (iopCheckDone ch (wordsMoved ch keys s (k + 1))) := by
  have moved := wordsMoved_alone (keys := keys) (k := k) h
  refine iopDmacTick_alone moved.others ?_ fun t ht ch' hne => ?_
  · rw [iopChannelTick_active moved.running moved.active, iopActiveTick_moves (wordsMoved_remaining_ne_zero hk)
      fun j hj => (wordsMoved_iopWordKey j).trans (hkey j hj)]
    rfl
  · obtain rfl := next_inj ht
    rw [iopCheckDone_otherChannel hne, wordsMoved_otherChannel _ _ _ hne, wordsMoved_otherChannel _ _ _ hne]

/-- While words are left, a run of `k` ticks has moved `k` of them. -/
theorem iopDmacRun_wordsMoved (h : IopAlone s ch) (hk : k < (s.iopChannel ch).remaining.toNat)
    (hkeys : ∀ i, i < k → ∀ j, j < 4 → iopWordKey s ch i j = some (keys i j)) :
    runTicks iopDmacTick k s = .next (wordsMoved ch keys s k) := by
  induction k with
  | zero => rfl
  | succ k ih =>
    rw [runTicks_succ (ih (by omega) fun i hi => hkeys i (by omega)),
      iopDmacTick_wordsMoved h (by omega) (hkeys k (by omega)), iopCheckDone_running (wordsMoved_remaining_ne_zero hk)]

/-- A transfer whose word `k` cannot be moved stops there. -/
theorem iopDmacRun_faults (h : IopAlone s ch) (hk : k < (s.iopChannel ch).remaining.toNat)
    (hkeys : ∀ i, i < k → ∀ j, j < 4 → iopWordKey s ch i j = some (keys i j))
    (hnone : ∃ j, j < 4 ∧ iopWordKey s ch k j = none) :
    runTicks iopDmacTick (k + 1) s = .fault (.unmappedAccess (wordAddr (s.iopChannel ch) k) 4
      (!(s.iopChannel ch).chcr.getLsbD 0)) := by
  have moved := wordsMoved_alone (keys := keys) (k := k) h
  obtain ⟨j, hj, hnone⟩ := hnone
  rw [runTicks_succ (iopDmacRun_wordsMoved h hk hkeys)]
  refine iopDmacTick_alone moved.others ?_ fun t ht => nomatch ht
  rw [iopChannelTick_active moved.running moved.active, iopActiveTick_faults (wordsMoved_remaining_ne_zero hk)
    ⟨j, hj, (wordsMoved_iopWordKey j).trans hnone⟩, wordsMoved_chcr, wordsMoved_madr]

/-- A run completes the transfer in its last word's tick, or in its first tick where there is none. -/
theorem iopDmacRun_completes (h : IopAlone s ch)
    (hkeys : ∀ i, i < (s.iopChannel ch).remaining.toNat → ∀ j, j < 4 → iopWordKey s ch i j = some (keys i j)) :
    runTicks iopDmacTick (max (s.iopChannel ch).remaining.toNat 1) s =
      .next (iopComplete ch (wordsMoved ch keys s (s.iopChannel ch).remaining.toNat)) := by
  cases hn : (s.iopChannel ch).remaining.toNat with
  | zero =>
    have none_left : (s.iopChannel ch).remaining = 0 := BitVec.eq_of_toNat_eq hn
    rw [wordsMoved_zero, show max 0 1 = 0 + 1 from rfl, runTicks_succ (t := s) rfl]
    refine iopDmacTick_alone h.others ?_ fun t ht ch' hne => ?_
    · rw [iopChannelTick_active h.running h.active, iopActiveTick, if_pos none_left, iopCheckDone_done none_left]
    · obtain rfl := next_inj ht
      exact iopComplete_otherChannel _ ch hne
  | succ n =>
    have done : ((wordsMoved ch keys s (n + 1)).iopChannel ch).remaining = 0 := by
      apply BitVec.eq_of_toNat_eq
      rw [wordsMoved_remaining _ _ _ (by omega), hn, Nat.sub_self]
      rfl
    rw [Nat.max_eq_left (by omega), runTicks_succ (iopDmacRun_wordsMoved h (by omega) fun i hi => hkeys i (by omega)),
      iopDmacTick_wordsMoved h (by omega) (hkeys n (by omega)), iopCheckDone_done done]

/-- CHCR after completion, bit by bit. -/
theorem getLsbD_completed_chcr (chcr : Word) {j : Nat} (hj : j < 32) :
    (setBit (setBit chcr 24 false) 28 false).getLsbD j = if j = 24 ∨ j = 28 then false else chcr.getLsbD j := by
  rw [getLsbD_setBit _ _ _ _ hj, getLsbD_setBit _ _ _ _ hj]
  by_cases h28 : j = 28
  · rw [if_pos h28, if_pos (.inr h28)]
  · by_cases h24 : j = 24
    · rw [if_neg h28, if_pos h24, if_pos (.inl h24)]
    · rw [if_neg h28, if_neg h24, if_neg (by omega)]

/-- A completed transfer leaves every channel stopped. -/
theorem iopDmacTick_completed (h : IopAlone s ch) : iopDmacTick (iopComplete ch s) = .next (iopComplete ch s) := by
  refine iopDmacTick_stopped fun ch' => ?_
  by_cases hne : ch' = ch
  · subst hne
    rw [iopComplete_channel, getLsbD_completed_chcr _ (by omega), if_pos (.inl rfl)]
  · rw [iopComplete_otherChannel s ch hne]
    exact h.others ch' hne

end

/-! ## The data of a transfer (R523) -/

section
variable (keys : Nat → Nat → Nat) (s : State) {ch : Fin 13}

/-- To the port: the words are appended in order. -/
theorem wordsMoved_toPort (hdir : (s.iopChannel ch).chcr.getLsbD 0 = true) (k : Nat) :
    (wordsMoved ch keys s k).mem = s.mem ∧ (wordsMoved ch keys s k).draws = s.draws ∧
      (wordsMoved ch keys s k).dmaOut =
        s.dmaOut ++ (List.range k).map (fun i => .word ch.val (readWord s.mem (keys i))) := by
  induction k with
  | zero => exact ⟨rfl, rfl, (List.append_nil _).symm⟩
  | succ k ih =>
    obtain ⟨hmem, hdraws, hout⟩ := ih
    rw [wordsMoved, wordMoved, if_pos (by rw [wordsMoved_chcr]; exact hdir)]
    refine ⟨hmem, hdraws, ?_⟩
    rw [List.range_succ, List.map_append, ← List.append_assoc, ← hout, ← hmem]
    rfl

/-- From the port: the draws are written in order. -/
theorem wordsMoved_fromPort (hdir : (s.iopChannel ch).chcr.getLsbD 0 = false) (k : Nat) :
    (wordsMoved ch keys s k).dmaOut = s.dmaOut ∧ (wordsMoved ch keys s k).draws = s.draws + k ∧
      (wordsMoved ch keys s k).mem =
        writeWords s.mem keys (fun i => (Config.draw (s.draws + i)).setWidth 32) k := by
  induction k with
  | zero => exact ⟨rfl, rfl, rfl⟩
  | succ k ih =>
    obtain ⟨hout, hdraws, hmem⟩ := ih
    rw [wordsMoved, wordMoved, if_neg (by rw [wordsMoved_chcr, hdir]; exact Bool.false_ne_true), writeWords, ← hmem,
      ← hdraws]
    exact ⟨hout, congrArg (· + 1) hdraws, rfl⟩

end

/-- A byte of the low word of a quadword. -/
theorem extract_setWidth_word (q : Quad) {j : Nat} (hj : j < 4) :
    (q.setWidth 32).extractLsb' (8 * j) 8 = q.extractLsb' (8 * j) 8 := by
  apply BitVec.eq_of_getLsbD_eq
  intro i hi
  simp only [BitVec.getLsbD_extractLsb', BitVec.getLsbD_setWidth, show 8 * j + i < 32 by omega, decide_true,
    Bool.true_and]

/-- Settles O57: `k` ticks move `k` words, the last one's tick completes, and the data are those of `wordsMoved`. -/
theorem iopDmaTransferCompletesInTickN : Obligations.IopDmaTransferCompletesInTickN := by
  refine ⟨fun write addr => ⟨iopDmaByteKey_unmapped, fun r => iopDmaByteKey_page⟩, ?faults, ?completes⟩
  case faults =>
    intro s ch n m hm c toMemory address hstart hphase hleft halone hmapped hnone
    have alone : IopAlone s ch := ⟨hstart, hphase, halone⟩
    have hm : m < (s.iopChannel ch).remaining.toNat := hleft ▸ hm
    have hkeys (i : Nat) (hi : i < m) (j : Nat) (hj : j < 4) :
        iopWordKey s ch i j = some ((iopWordKey s ch i j).getD 0) := by
      obtain ⟨key, h⟩ := Option.isSome_iff_exists.1 (hmapped i hi j hj)
      rw [show iopWordKey s ch i j = some key from h]
      rfl
    have moved := iopDmacRun_wordsMoved (keys := fun i j => (iopWordKey s ch i j).getD 0) alone hm hkeys
    refine ⟨⟨_, (iopDmacRun_eq m s).trans moved, ?_⟩, fun k hk => ?_⟩
    · rw [wordsMoved_remaining _ _ _ (Nat.le_of_lt hm), hleft]
    · rw [iopDmacRun_eq]
      exact runTicks_fault (iopDmacRun_faults (keys := fun i j => (iopWordKey s ch i j).getD 0) alone hm hkeys hnone) hk
  case completes =>
    intro s ch n keys c hstart hphase hleft halone address hkeys
    have alone : IopAlone s ch := ⟨hstart, hphase, halone⟩
    subst hleft
    have running {k : Nat} (hk : k < c.remaining.toNat) : iopDmacRun k s = .next (wordsMoved ch keys s k) :=
      (iopDmacRun_eq k s).trans (iopDmacRun_wordsMoved alone hk fun i hi => hkeys i (by omega))
    have completed := iopDmacRun_completes alone hkeys
    have channel := iopComplete_channel (wordsMoved ch keys s c.remaining.toNat) ch
    obtain ⟨hmem, hout, hdraws⟩ := iopComplete_data (wordsMoved ch keys s c.remaining.toNat) ch
    obtain ⟨hdicr, hdicr2, hintc⟩ := wordsMoved_flags ch keys s c.remaining.toNat
    refine ⟨fun k hk => ?_, iopComplete ch (wordsMoved ch keys s c.remaining.toNat), fun k hk => ?run,
      fun j hj => ?chcr, ?phase, ?left, ?madr, fun j hj => ?dicr, fun j hj => ?dicr2, fun j hj => ?stat,
      fun ch' hne => ?other, fun _ hdir => ?toPort, fun haligned hdir => ?fromPort⟩
    · obtain ⟨hdicr, hdicr2, -⟩ := wordsMoved_flags ch keys s k
      exact ⟨_, running hk, wordsMoved_chcr ch keys s k, wordsMoved_remaining _ _ _ (Nat.le_of_lt hk),
        wordsMoved_madr ch keys s k, hdicr, hdicr2⟩
    case run =>
      rw [iopDmacRun_eq]
      exact runTicks_idle completed (iopDmacTick_completed (wordsMoved_alone alone)) hk
    case chcr => rw [channel, wordsMoved_chcr, getLsbD_completed_chcr _ hj]
    case phase => rw [channel]
    case left =>
      apply BitVec.eq_of_toNat_eq
      rw [channel]
      exact (wordsMoved_remaining _ _ _ le_rfl).trans (Nat.sub_self _)
    case madr => rw [channel]; exact wordsMoved_madr ch keys s _
    case dicr => rw [iopComplete_dicr _ _ hj, hdicr]
    case dicr2 => rw [iopComplete_dicr2 _ _ hj, hdicr2]
    case stat => rw [iopComplete_stat, hintc]
    case other => rw [iopComplete_otherChannel _ ch hne, wordsMoved_otherChannel _ _ _ hne]
    case toPort =>
      rw [hmem, hout, hdraws]
      exact wordsMoved_toPort keys s hdir _
    case fromPort =>
      obtain ⟨kout, kdraws, kmem⟩ := wordsMoved_fromPort keys s hdir c.remaining.toNat
      rw [hmem, hout, hdraws, kmem]
      refine ⟨kout, kdraws, fun k hk j hj hlast => ?_, fun b hb => read_writeWords_other _ _ _ hb⟩
      have consecutive (i : Nat) (hi : i < 4) : keys k i = keys k 0 + i :=
        iopDmaByteKey_aligned (wordAddr_aligned haligned k) (hkeys k hk) hi
      rw [read_writeWords_last _ _ _ hk hj consecutive hlast, extract_setWidth_word _ hj]

end Sys2Proof.Machine
end

section
/-! SUPPORT. The device registers at their addresses: what serves each address, what a write stores bit by bit, the
external ranges, and the statement (20_memory.md R123; 60_exceptions.md R450, R460, R463, R480 to R483, R520 to R527,
R540 to R542, R570, R571). -/

namespace Sys2Proof.Machine

/-! ## Registers at their addresses -/

section
variable {s : State} {pa : Word} {v : Quad}

theorem mmioRead_eeReg (r : EeReg) (h : mmioTarget .ee pa 4 = .eeReg r) :
    mmioRead .ee s pa 4 = .value ((readEeReg s r).setWidth 128) s := by
  simp only [mmioRead, h]

theorem mmioRead_iopReg (r : IopReg) (h : mmioTarget .iop pa 4 = .iopReg r) :
    mmioRead .iop s pa 4 = .value ((readIopReg s r).setWidth 128) (afterReadIopReg s r) := by
  simp only [mmioRead, h]

theorem mmioWrite_eeReg (r : EeReg) (h : mmioTarget .ee pa 4 = .eeReg r) :
    mmioWrite .ee s pa 4 v = writeEeReg r (v.setWidth 32) s := by
  simp only [mmioWrite, h]

theorem mmioWrite_iopReg (r : IopReg) (h : mmioTarget .iop pa 4 = .iopReg r) :
    mmioWrite .iop s pa 4 v = writeIopReg r (v.setWidth 32) s := by
  simp only [mmioWrite, h]

end

theorem mmioTarget_eeTimerReg (n : Fin 4) {off : Nat} {r : EeReg} (hoff : off ∈ eeTimerOffsets n)
    (hr : eeTimerReg n off = some r) :
    mmioTarget .ee (BitVec.ofNat 32 (0x10000000 + 0x800 * n.val + off)) 4 = .eeReg r := by
  have all : ∀ n, ∀ off ∈ eeTimerOffsets n, (eeTimerReg n off).map MmioTarget.eeReg =
      some (mmioTarget .ee (BitVec.ofNat 32 (0x10000000 + 0x800 * n.val + off)) 4) := by decide
  have served := all n off hoff
  rw [hr] at served
  exact (Option.some.inj served).symm

theorem mmioTarget_eeChannelReg {ch : Fin 10} {base off : Nat} {r : EeReg} (hb : (ch, base) ∈ eeChannelBlocks)
    (hoff : off ∈ eeChannelOffsets) (hr : eeChannelReg ch off = some r) :
    mmioTarget .ee (BitVec.ofNat 32 (base + off)) 4 = .eeReg r := by
  have all : ∀ b ∈ eeChannelBlocks, ∀ off ∈ eeChannelOffsets, (eeChannelReg b.1 off).map MmioTarget.eeReg =
      some (mmioTarget .ee (BitVec.ofNat 32 (b.2 + off)) 4) := by decide
  have served := all (ch, base) hb off hoff
  rw [hr] at served
  exact (Option.some.inj served).symm

/-- The address of an IOP timer's block (R570). -/
def iopTimerBase (n : Fin 6) : Nat :=
  if n.val < 3 then 0x1F801100 + 0x10 * n.val else 0x1F801480 + 0x10 * (n.val - 3)

theorem mmioTarget_iopTimerReg (n : Fin 6) {off : Nat} {r : IopReg} (hoff : off ∈ iopTimerOffsets)
    (hr : iopTimerReg n off = some r) :
    mmioTarget .iop (BitVec.ofNat 32 (iopTimerBase n + off)) 4 = .iopReg r := by
  have all : ∀ n, ∀ off ∈ iopTimerOffsets, (iopTimerReg n off).map MmioTarget.iopReg =
      some (mmioTarget .iop (BitVec.ofNat 32 (iopTimerBase n + off)) 4) := by decide
  have served := all n off hoff
  rw [hr] at served
  exact (Option.some.inj served).symm

/-- The address of an IOP channel's block (R520). -/
def iopChannelBase (ch : Fin 13) : Nat :=
  if ch.val < 7 then 0x1F801080 + 0x10 * ch.val else 0x1F801500 + 0x10 * (ch.val - 7)

theorem mmioTarget_iopChannelReg (ch : Fin 13) {off : Nat} {r : IopReg} (hoff : off ∈ iopChannelOffsets)
    (hr : iopChannelReg ch off = some r) :
    mmioTarget .iop (BitVec.ofNat 32 (iopChannelBase ch + off)) 4 = .iopReg r := by
  have all : ∀ ch, ∀ off ∈ iopChannelOffsets, (iopChannelReg ch off).map MmioTarget.iopReg =
      some (mmioTarget .iop (BitVec.ofNat 32 (iopChannelBase ch + off)) 4) := by decide
  have served := all ch off hoff
  rw [hr] at served
  exact (Option.some.inj served).symm

/-! ## What a write stores -/

/-- A register of 15 or 16 bits read as a word, then as the value of a load. -/
theorem setWidth_word_quad {n : Nat} (v : BitVec n) (hn : n ≤ 32) : (v.setWidth 32).setWidth 128 = v.setWidth 128 := by
  apply BitVec.eq_of_toNat_eq
  rw [BitVec.toNat_setWidth_of_le (by omega), BitVec.toNat_setWidth_of_le hn, BitVec.toNat_setWidth_of_le (by omega)]

/-- D_STAT: status bits clear and mask bits toggle where a 1 is written (R483). -/
theorem getLsbD_writeDStat (d w : Word) {j : Nat} (hj : j < 32) :
    ((d &&& ~~~(w &&& 0x0000E3FF#32)) ^^^ (w &&& 0x63FF0000#32)).getLsbD j =
      if j < 10 ∨ j = 13 ∨ j = 14 ∨ j = 15 then d.getLsbD j && !w.getLsbD j
      else if (16 ≤ j ∧ j < 26) ∨ j = 29 ∨ j = 30 then d.getLsbD j ^^ w.getLsbD j
      else d.getLsbD j := by
  have clears : ∀ j < 32, (0x0000E3FF#32).getLsbD j = decide (j < 10 ∨ j = 13 ∨ j = 14 ∨ j = 15) := by decide
  have toggles : ∀ j < 32, (0x63FF0000#32).getLsbD j = decide ((16 ≤ j ∧ j < 26) ∨ j = 29 ∨ j = 30) := by decide
  simp only [BitVec.getLsbD_xor, BitVec.getLsbD_and, BitVec.getLsbD_not, hj, clears j hj, toggles j hj, decide_true,
    Bool.true_and]
  by_cases hc : j < 10 ∨ j = 13 ∨ j = 14 ∨ j = 15
  · have ht : ¬ ((16 ≤ j ∧ j < 26) ∨ j = 29 ∨ j = 30) := by omega
    simp only [hc, ht, decide_true, decide_false, if_true, Bool.and_true, Bool.and_false, Bool.xor_false]
  · by_cases ht : (16 ≤ j ∧ j < 26) ∨ j = 29 ∨ j = 30
    · simp only [hc, ht, decide_true, decide_false, if_true, if_false, Bool.and_true, Bool.and_false, Bool.not_false]
    · simp only [hc, ht, decide_false, if_false, Bool.and_false, Bool.not_false, Bool.and_true, Bool.xor_false]

/-- A register whose bits of `stored` take what is written, and whose bits of `flags` clear where a 1 is written. -/
theorem getLsbD_storeOrClear (stored flags old w : Word) {j : Nat} (hj : j < 32)
    (disjoint : (stored.getLsbD j && flags.getLsbD j) = false) :
    ((w &&& stored) ||| (old &&& ~~~w &&& flags)).getLsbD j =
      if stored.getLsbD j then w.getLsbD j else if flags.getLsbD j then old.getLsbD j && !w.getLsbD j else false := by
  simp only [BitVec.getLsbD_or, BitVec.getLsbD_and, BitVec.getLsbD_not, hj, decide_true, Bool.true_and]
  cases hs : stored.getLsbD j <;> cases hf : flags.getLsbD j <;> simp_all

theorem getLsbD_dicr (old w : Word) {j : Nat} (hj : j < 32) :
    ((w &&& 0x00FFFFFF#32) ||| (old &&& ~~~w &&& 0x7F000000#32)).getLsbD j =
      if j < 24 then w.getLsbD j else if j < 31 then old.getLsbD j && !w.getLsbD j else false := by
  have masks : ∀ j < 32, (0x00FFFFFF#32).getLsbD j = decide (j < 24) ∧
      (0x7F000000#32).getLsbD j = decide (24 ≤ j ∧ j < 31) := by decide
  obtain ⟨hstored, hflags⟩ := masks j hj
  rw [getLsbD_storeOrClear _ _ _ _ hj (by rw [hstored, hflags]; simp; omega), hstored, hflags]
  by_cases h24 : j < 24
  · simp only [h24, decide_true, if_true]
  · simp only [h24, decide_false, Bool.false_eq_true, if_false, decide_eq_true_eq, show 24 ≤ j by omega, true_and]

theorem getLsbD_dicr2 (old w : Word) {j : Nat} (hj : j < 32) :
    ((w &&& 0x00FFFFFF#32) ||| (old &&& ~~~w &&& 0x3F000000#32)).getLsbD j =
      if j < 24 then w.getLsbD j else if j < 30 then old.getLsbD j && !w.getLsbD j else false := by
  have masks : ∀ j < 32, (0x00FFFFFF#32).getLsbD j = decide (j < 24) ∧
      (0x3F000000#32).getLsbD j = decide (24 ≤ j ∧ j < 30) := by decide
  obtain ⟨hstored, hflags⟩ := masks j hj
  rw [getLsbD_storeOrClear _ _ _ _ hj (by rw [hstored, hflags]; simp; omega), hstored, hflags]
  by_cases h24 : j < 24
  · simp only [h24, decide_true, if_true]
  · simp only [h24, decide_false, Bool.false_eq_true, if_false, decide_eq_true_eq, show 24 ≤ j by omega, true_and]

/-- T_MODE: bits 9:0 are stored, the flags clear where a 1 is written (R541). -/
theorem getLsbD_tMode (old w : Word) {j : Nat} (hj : j < 32) :
    ((w &&& 0x000003FF#32) ||| (old &&& ~~~w &&& 0x00000C00#32)).getLsbD j =
      if j < 10 then w.getLsbD j else if j < 12 then old.getLsbD j && !w.getLsbD j else false := by
  have masks : ∀ j < 32, (0x000003FF#32).getLsbD j = decide (j < 10) ∧
      (0x00000C00#32).getLsbD j = decide (10 ≤ j ∧ j < 12) := by decide
  obtain ⟨hstored, hflags⟩ := masks j hj
  rw [getLsbD_storeOrClear _ _ _ _ hj (by rw [hstored, hflags]; simp; omega), hstored, hflags]
  by_cases h10 : j < 10
  · simp only [h10, decide_true, if_true]
  · simp only [h10, decide_false, Bool.false_eq_true, if_false, decide_eq_true_eq, show 10 ≤ j by omega, true_and]

/-- MODE of an IOP timer: bits 15:13 and 9:0 are stored (R571). -/
theorem getLsbD_iopTMode (w : Word) {j : Nat} (hj : j < 32) :
    (w &&& 0x0000E3FF#32).getLsbD j = if j < 10 ∨ (13 ≤ j ∧ j < 16) then w.getLsbD j else false := by
  have mask : ∀ j < 32, (0x0000E3FF#32).getLsbD j = decide (j < 10 ∨ (13 ≤ j ∧ j < 16)) := by decide
  rw [BitVec.getLsbD_and, mask j hj]
  split <;> simp [*]

/-- What an IOP timer stores of a count or a target (R571). -/
theorem and_iopTimerMax (n : Fin 6) (w : Word) :
    w &&& iopTimerMax n = if n.val < 3 then (w.setWidth 16).setWidth 32 else w := by
  unfold iopTimerMax
  by_cases hn : n.val < 3
  · rw [if_pos (by omega), if_pos hn]
    apply BitVec.eq_of_toNat_eq
    rw [toNat_and_mask w 0x0000FFFF#32 16 rfl, BitVec.toNat_setWidth_of_le (by omega), BitVec.toNat_setWidth]
  · rw [if_neg (by omega), if_neg hn]
    exact BitVec.and_allOnes

/-! ### The line of the IOP DMAC after a write (R526, R527) -/

/-- I_STAT after the line is looked at. -/
def lineRequested (line : Bool) (stat : Word) : Word := if line then stat ||| (1#32 <<< 3) else stat

theorem iopDmaLineUpdate_eq (s : State) : s.iopDmaLineUpdate = { s with iopIntc := { s.iopIntc with
    stat := lineRequested (iopDmacLine s.iopDmac.dicr s.iopDmac.dicr2) s.iopIntc.stat } } := by
  rw [State.iopDmaLineUpdate, State.iopDmaLine_eq_line, lineRequested]
  split <;> rfl

theorem getLsbD_lineRequested (line : Bool) (stat : Word) (j : Nat) :
    (lineRequested line stat).getLsbD j = if j = 3 then stat.getLsbD j || line else stat.getLsbD j := by
  cases line
  · simp [lineRequested]
  · rw [lineRequested, if_pos rfl, getLsbD_or_bit _ _ _ (by omega), Bool.or_true]

section
variable (s : State) (w : Word)

theorem writeDicr_eq : writeDicr w s =
    let d := (w &&& 0x00FFFFFF#32) ||| (s.iopDmac.dicr &&& ~~~w &&& 0x7F000000#32)
    { s with
      iopDmac := { s.iopDmac with dicr := d }
      iopIntc := { s.iopIntc with stat := lineRequested (iopDmacLine d s.iopDmac.dicr2) s.iopIntc.stat } } := by
  rw [writeDicr, iopDmaLineUpdate_eq]

theorem writeDicr2_eq : writeDicr2 w s =
    let d := (w &&& 0x00FFFFFF#32) ||| (s.iopDmac.dicr2 &&& ~~~w &&& 0x3F000000#32)
    { s with
      iopDmac := { s.iopDmac with dicr2 := d }
      iopIntc := { s.iopIntc with stat := lineRequested (iopDmacLine s.iopDmac.dicr d) s.iopIntc.stat } } := by
  rw [writeDicr2, iopDmaLineUpdate_eq]

theorem getLsbD_readDicr {j : Nat} (hj : j < 32) : s.readDicr.getLsbD j =
    if j = 31 then iopDmacLine s.iopDmac.dicr s.iopDmac.dicr2 else s.iopDmac.dicr.getLsbD j := by
  rw [State.readDicr, getLsbD_setBit _ _ _ _ hj, State.iopDmaLine_eq_line]

end

/-! ## The external ranges (20_memory.md R123) -/

/-- No address of an external range lies in an in-block range. -/
theorem mmio_of_external {c : Cpu} {a : Nat} (h : (Config.externalMmio c).any (fun r => r.holds a) = true) :
    (Config.mmio c).any (fun r => r.holds a) = false := by
  have disjoint : ∀ r ∈ Config.externalMmio c, ∀ r' ∈ Config.mmio c, r.last < r'.first ∨ r'.last < r.first := by
    cases c <;> decide
  obtain ⟨r, hr, hin⟩ := List.any_eq_true.1 h
  refine Bool.eq_false_iff.2 fun hblock => ?_
  obtain ⟨r', hr', hin'⟩ := List.any_eq_true.1 hblock
  rw [AddrRange.holds, Bool.and_eq_true, decide_eq_true_iff, decide_eq_true_iff] at hin hin'
  have := disjoint r hr r' hr'
  omega

theorem mmioWrite_external {c : Cpu} {s : State} {pa : Word} {n : Nat} {v : Quad}
    (h : mmioTarget c pa n = .external) : mmioWrite c s pa n v =
      .next { s with extWrites := s.extWrites ++ [⟨c, pa, n, truncBytes n v⟩] } := by
  simp only [mmioWrite, h]

theorem toNat_truncBytes (v : Quad) {n : Nat} (hn : n ≤ 16) : (truncBytes n v).toNat = v.toNat % 2 ^ (8 * n) :=
  toNat_setWidth_setWidth v hn

/-- Settles O52: each address by what serves it, each stored value bit by bit. -/
theorem interruptRegistersAndExternalRanges : Obligations.InterruptRegistersAndExternalRanges := by
  intro s v w
  refine ⟨?statRead, ?maskRead, mmioWrite_eeReg .intcStat (by decide), mmioWrite_eeReg .intcMask (by decide),
    mmioRead_iopReg .iStat (by decide), mmioRead_iopReg .iMask (by decide), mmioRead_iopReg .iCtrl (by decide),
    mmioWrite_iopReg .iStat (by decide), mmioWrite_iopReg .iMask (by decide), mmioWrite_iopReg .iCtrl (by decide),
    mmioRead_eeReg .dStat (by decide), ?dStat, ?dicrRead, mmioRead_iopReg .dicr2 (by decide), ?dicr, ?dicr2,
    fun n => ?eeTimers, fun n => ?iopTimers, fun ch base hbase => ?eeChannels, ?eeControl, fun ch => ?iopChannels,
    ?iopControl, fun c pa n hn hext => ?external⟩
  case statRead => rw [mmioRead_eeReg .intcStat (by decide), readEeReg, setWidth_word_quad _ (by omega)]
  case maskRead => rw [mmioRead_eeReg .intcMask (by decide), readEeReg, setWidth_word_quad _ (by omega)]
  case dStat => exact ⟨_, mmioWrite_eeReg .dStat (by decide), fun j hj => getLsbD_writeDStat _ _ hj⟩
  case dicrRead => exact ⟨_, mmioRead_iopReg .dicr (by decide), fun j hj => getLsbD_readDicr s hj⟩
  case dicr =>
    refine ⟨_, _, ?_, fun j hj => getLsbD_dicr s.iopDmac.dicr w hj, fun j _ => getLsbD_lineRequested _ _ j⟩
    rw [mmioWrite_iopReg .dicr (by decide), writeIopReg, writeDicr_eq]
  case dicr2 =>
    refine ⟨_, _, ?_, fun j hj => getLsbD_dicr2 s.iopDmac.dicr2 w hj, fun j _ => getLsbD_lineRequested _ _ j⟩
    rw [mmioWrite_iopReg .dicr2 (by decide), writeIopReg, writeDicr2_eq]
  case eeTimers =>
    intro t at'
    have offset {off : Nat} (h : off ∈ [0x00, 0x10, 0x20]) : off ∈ eeTimerOffsets n := List.mem_append_left _ h
    have count := mmioTarget_eeTimerReg n (offset (show 0x00 ∈ _ by decide)) rfl
    have mode := mmioTarget_eeTimerReg n (offset (show 0x10 ∈ _ by decide)) rfl
    have comp := mmioTarget_eeTimerReg n (offset (show 0x20 ∈ _ by decide)) rfl
    refine ⟨?_, mmioRead_eeReg _ mode, ?_, mmioWrite_eeReg _ count, fun hgate => ?_, fun hgate => ⟨_, ?_, fun j hj =>
      getLsbD_tMode t.mode w hj⟩, mmioWrite_eeReg _ comp, fun hn => ?_⟩
    · rw [mmioRead_eeReg _ count, readEeReg, setWidth_word_quad _ (by omega)]
    · rw [mmioRead_eeReg _ comp, readEeReg, setWidth_word_quad _ (by omega)]
    · rw [mmioWrite_eeReg _ mode]
      exact if_pos hgate
    · rw [mmioWrite_eeReg _ mode]
      exact if_neg (Bool.eq_false_iff.1 hgate)
    · have hold := mmioTarget_eeTimerReg n (off := 0x30) (r := .tHold n)
        (by rw [eeTimerOffsets, if_pos (by omega)]; decide) (if_pos (by omega))
      refine ⟨?_, mmioWrite_eeReg _ hold⟩
      rw [mmioRead_eeReg _ hold, readEeReg, setWidth_word_quad _ (by omega)]
  case iopTimers =>
    intro t at' stored
    have count := mmioTarget_iopTimerReg n (off := 0x0) (by decide) rfl
    have mode := mmioTarget_iopTimerReg n (off := 0x4) (by decide) rfl
    have target := mmioTarget_iopTimerReg n (off := 0x8) (by decide) rfl
    have hstored : w &&& iopTimerMax n = stored := and_iopTimerMax n w
    refine ⟨mmioRead_iopReg _ count, mmioRead_iopReg _ mode, mmioRead_iopReg _ target, ?_, fun hgate => ?_,
      fun hgate => ⟨_, ?_, fun j hj => getLsbD_iopTMode w hj⟩, ?_⟩
    · rw [← hstored]
      exact mmioWrite_iopReg _ count
    · exact (mmioWrite_iopReg _ mode).trans (if_pos hgate)
    · exact (mmioWrite_iopReg _ mode).trans (if_neg (Bool.eq_false_iff.1 hgate))
    · rw [← hstored]
      exact mmioWrite_iopReg _ target
  case eeChannels =>
    intro c reads stores
    have hblock : (ch, base) ∈ eeChannelBlocks := by
      obtain ⟨b, hb, hb'⟩ := List.mem_map.1
        (show (ch.val, base) ∈ eeChannelBlocks.map (fun b => (b.1.val, b.2)) from hbase)
      obtain rfl : b = (ch, base) := Prod.ext (Fin.ext (Prod.ext_iff.1 hb').1) (Prod.ext_iff.1 hb').2
      exact hb
    have served {off : Nat} {r : EeReg} (hoff : off ∈ eeChannelOffsets) (hr : eeChannelReg ch off = some r) :
        mmioRead .ee s (BitVec.ofNat 32 (base + off)) 4 = .value ((readEeReg s r).setWidth 128) s ∧
          mmioWrite .ee s (BitVec.ofNat 32 (base + off)) 4 v = writeEeReg r w s :=
      ⟨mmioRead_eeReg r (mmioTarget_eeChannelReg hblock hoff hr),
        mmioWrite_eeReg r (mmioTarget_eeChannelReg hblock hoff hr)⟩
    obtain ⟨chcr, -⟩ := served (off := 0x00) (by decide) rfl
    obtain ⟨madr, madr'⟩ := served (off := 0x10) (by decide) rfl
    obtain ⟨qwc, qwc'⟩ := served (off := 0x20) (by decide) rfl
    obtain ⟨tadr, tadr'⟩ := served (off := 0x30) (by decide) rfl
    obtain ⟨asr0, asr0'⟩ := served (off := 0x40) (by decide) rfl
    obtain ⟨asr1, asr1'⟩ := served (off := 0x50) (by decide) rfl
    obtain ⟨sadr, sadr'⟩ := served (off := 0x80) (by decide) rfl
    exact ⟨chcr, madr, madr', qwc, qwc', tadr, tadr', asr0, asr0', asr1, asr1', sadr, sadr'⟩
  case eeControl =>
    intro reads stores
    have served {pa : Word} (r : EeReg) (h : mmioTarget .ee pa 4 = .eeReg r) :
        mmioRead .ee s pa 4 = .value ((readEeReg s r).setWidth 128) s ∧
          mmioWrite .ee s pa 4 v = writeEeReg r w s := ⟨mmioRead_eeReg r h, mmioWrite_eeReg r h⟩
    obtain ⟨ctrl, ctrl'⟩ := served (pa := 0x1000E000#32) .dCtrl (by decide)
    obtain ⟨pcr, pcr'⟩ := served (pa := 0x1000E020#32) .dPcr (by decide)
    obtain ⟨sqwc, sqwc'⟩ := served (pa := 0x1000E030#32) .dSqwc (by decide)
    obtain ⟨rbsr, rbsr'⟩ := served (pa := 0x1000E040#32) .dRbsr (by decide)
    obtain ⟨rbor, rbor'⟩ := served (pa := 0x1000E050#32) .dRbor (by decide)
    obtain ⟨enabler, enabler'⟩ := served (pa := 0x1000F520#32) .dEnabler (by decide)
    obtain ⟨enablew, enablew'⟩ := served (pa := 0x1000F590#32) .dEnablew (by decide)
    exact ⟨ctrl, ctrl', pcr, pcr', sqwc, sqwc', rbsr, rbsr', rbor, rbor', enabler, enabler', enablew, enablew'⟩
  case iopChannels =>
    intro c at' reads stores
    have served {off : Nat} {r : IopReg} (hoff : off ∈ iopChannelOffsets) (hr : iopChannelReg ch off = some r) :
        mmioRead .iop s (BitVec.ofNat 32 (iopChannelBase ch + off)) 4 =
            .value ((readIopReg s r).setWidth 128) (afterReadIopReg s r) ∧
          mmioWrite .iop s (BitVec.ofNat 32 (iopChannelBase ch + off)) 4 v = writeIopReg r w s :=
      ⟨mmioRead_iopReg r (mmioTarget_iopChannelReg ch hoff hr),
        mmioWrite_iopReg r (mmioTarget_iopChannelReg ch hoff hr)⟩
    obtain ⟨madr, madr'⟩ := served (off := 0x0) (by decide) rfl
    obtain ⟨bcr, bcr'⟩ := served (off := 0x4) (by decide) rfl
    obtain ⟨chcr, -⟩ := served (off := 0x8) (by decide) rfl
    obtain ⟨tadr, tadr'⟩ := served (off := 0xC) (by decide) rfl
    exact ⟨madr, madr', bcr, bcr', chcr, tadr, tadr'⟩
  case iopControl =>
    exact ⟨mmioRead_iopReg .dpcr (by decide), mmioWrite_iopReg .dpcr (by decide), mmioRead_iopReg .dpcr2 (by decide),
      mmioWrite_iopReg .dpcr2 (by decide)⟩
  case external =>
    have target := mmioTarget_external (n := n) (mmio_of_external hext) hext
    exact ⟨⟨_, mmioRead_external target, toNat_truncBytes _ hn⟩, ⟨_, mmioWrite_external target, toNat_truncBytes _ hn⟩⟩

end Sys2Proof.Machine
end
